-- ==== Sys2Proof/Word.lean ====
section
/-! DEFINITION. The two widths the hardware has: the byte (R5, R9) and the 17-bit command word (R80). -/

namespace Sys2Proof

/-- A byte, the only data value (R5 `BYTE_W` = 8, R9): a natural number in 0..255. -/
abbrev Byte := BitVec 8

/-- The value of register CMD, 17 bits (R21, R80). -/
abbrev Cmd := BitVec 17

end Sys2Proof
end

