-- ==== Sys2Proof/Config.lean ====
section
/-! DEFINITION. What the document fixes as constants (R5), what it leaves to the instance of the hardware (R6), and
the free values for what the spec calls unspecified (R13). -/

namespace Sys2Proof

/-- `RUN_MAX`: the greatest run length one run record holds (R5). -/
def Config.runMax : Nat := 255

/-- The open parameters of one instance (R6): capacities of the three buffers in bytes and the width of the length
registers, each a natural number or, where it is `none`, infinite. Log 6. -/
structure Params where
  icap : Option Nat
  mcap : Option Nat
  ocap : Option Nat
  lenW : Option Nat
  deriving DecidableEq, Repr

/-- The recommended default of R6: everything infinite. -/
def Params.unbounded : Params := ⟨none, none, none, none⟩

/-- The byte an unspecified read of OBUF draws, by the number of the draw (R13, R192). Free: nothing constrains it. Log 5. -/
opaque Config.freeByte : Nat → Byte

/-- The number an unspecified read of OLEN draws, by the number of the draw (R13, R191). Free: nothing constrains it. Log 5. -/
opaque Config.freeLength : Nat → Nat

end Sys2Proof
end

