-- ==== Sys2Proof/Machine/Events.lean ====
section
/-! DEFINITION. What can happen to the machine from outside, as plain data: the host operations of R186 to R193, reset
(R230), the turns the core is given (R8), and the values the host's reads return. -/

namespace Sys2Proof.Machine

/-- The host operations (R186 to R193), each atomic. -/
inductive HostOp where
  /-- `H_WRITE_IBUF a, b`, R186 -/
  | writeIbuf (a : Nat) (b : Byte)
  /-- `H_WRITE_ILEN n`, R187 -/
  | writeIlen (n : Nat)
  /-- `H_WRITE_CMD c`, R188 -/
  | writeCmd (c : Cmd)
  /-- `H_START`, R178 and R189 -/
  | start
  /-- `H_READ_STATUS`, R190 -/
  | readStatus
  /-- `H_READ_OLEN`, R191 -/
  | readOlen
  /-- `H_READ_OBUF a`, R192 -/
  | readObuf (a : Nat)
  /-- `H_READ_CMD`, R193 -/
  | readCmd
  /-- `H_READ_ILEN`, R193 -/
  | readIlen
  deriving DecidableEq, Repr

/-- One thing that happens next. The order of the events is the order in which the agents of R8 act. Log 2. -/
inductive Event where
  /-- The host takes one host operation. -/
  | host (op : HostOp)
  /-- Reset, R230. -/
  | reset
  /-- The core is given one turn: one core step if it has one (R181). -/
  | core
  /-- One whole operation, undisturbed: `H_START`, then core steps until STATE ≠ BUSY (R172 to R177, R184). Log 1. -/
  | execute
  deriving DecidableEq, Repr

/-- The value one host read returned (R190 to R193). -/
inductive Reply where
  | status (w : BitVec 8)
  | olen (n : Nat)
  | obuf (a : Nat) (b : Byte)
  | cmd (c : Cmd)
  | ilen (n : Nat)
  deriving DecidableEq, Repr

end Sys2Proof.Machine
end

