-- ==== Sys2Proof/Machine/State.lean ====
section
/-! DEFINITION. The whole state of one instance of the hardware (R20), the reasons a step can stop, and the state after
reset (R43). -/

namespace Sys2Proof.Machine

/-- A buffer: its written bytes as (index, byte) pairs, indices strictly rising; an index not listed is unwritten
(R233). Log 4. -/
abbrev Memory := List Host.Cell

/-- `STATUS.STATE` (R25). -/
inductive OpState where
  | idle
  | busy
  | done
  | error
  deriving DecidableEq, Repr

/-- `STATUS.ERR` (R26, R200). -/
inductive Err where
  | none
  | invalidMethod
  | malformedRLEStream
  | capacityExceeded
  deriving DecidableEq, Repr

/-- The three buffers, three separate address spaces (R53). -/
inductive Space where
  | ibuf
  | mbuf
  | obuf
  deriving DecidableEq, Repr

/-- The four stage kinds, an enumeration with no bit encoding (R180). -/
inductive StageKind where
  | denc
  | ddec
  | renc
  | rdec
  deriving DecidableEq, Repr

/-- One stage of a schedule: kind, source buffer, destination buffer (R180). -/
structure Stage where
  kind : StageKind
  src : Space
  dst : Space
  deriving DecidableEq, Repr

/-- Why the model stops where the spec gives no next state. -/
inductive Fault where
  /-- Raised by a core step that reads a byte nothing has written since reset, as R233 asks of a model (log 4). Safe:
  the hardware goes on with an unspecified byte. -/
  | unwrittenByte
  /-- Raised by a core step in a state with STATE = BUSY whose CMD or STG names no stage; R181 says there is none, and
  the invariant of Safety.lean rules such states out (log 9). Safe: no run meets it. -/
  | noActiveStage
  deriving DecidableEq, Repr

/-- What the model does not run. -/
inductive Refusal where
  /-- Raised by exec's arm of a command without a meaning; no arm raises it now. Safe. -/
  | notModelled (mnemonic : String)
  /-- Raised by `H_WRITE_ILEN n` with `n` not below 2^`LEN_W`: R187 gives no such host operation (log 7). Safe. -/
  | lengthTooWide
  deriving DecidableEq, Repr

/-- The complete state (R20), and beside it the instance's parameters (R6), the events still to come, what the host's
reads returned, and the number of free values drawn (logs 2, 5, 6, 11). -/
structure State where
  /-- CMD, R21 -/
  cmd : Cmd
  /-- ILEN, R22 -/
  ilen : Nat
  /-- OLEN, R23 -/
  olen : Nat
  /-- STATUS.STATE, R25 -/
  state : OpState
  /-- STATUS.ERR, R26 -/
  err : Err
  /-- STG, R29 -/
  stg : Fin 2
  /-- SLEN, R30 -/
  slen : Nat
  /-- MLEN, R30 -/
  mlen : Nat
  /-- RP, R31 -/
  rp : Nat
  /-- WP, R32 -/
  wp : Nat
  /-- PREV, R33 -/
  prev : Byte
  /-- ACC, R34 -/
  acc : Byte
  /-- CUR, R35 -/
  cur : Byte
  /-- CNT, R35 -/
  cnt : Byte
  /-- VAL, R36 -/
  val : Byte
  /-- REM, R36 -/
  rem : Byte
  /-- IBUF, R50 -/
  ibuf : Memory
  /-- MBUF, R51 -/
  mbuf : Memory
  /-- OBUF, R52 -/
  obuf : Memory
  /-- ICAP, MCAP, OCAP, LEN_W, R6 -/
  params : Params
  /-- The events still to come, the next one first. -/
  script : List Event
  /-- What the host's reads returned, the latest first. -/
  replies : List Reply
  /-- How many unspecified values have been drawn. -/
  draws : Nat
  deriving DecidableEq, Repr

/-- The machine right after reset (R43): CMD, ILEN, OLEN and STATUS 0; nothing written in any buffer; the working
registers, which R43 leaves unspecified, at 0 (DESIGN CHOICE, log 3). -/
def State.reset : State where
  cmd := 0#17
  ilen := 0
  olen := 0
  state := .idle
  err := .none
  stg := 0
  slen := 0
  mlen := 0
  rp := 0
  wp := 0
  prev := 0#8
  acc := 0#8
  cur := 0#8
  cnt := 0#8
  val := 0#8
  rem := 0#8
  ibuf := []
  mbuf := []
  obuf := []
  params := Params.unbounded
  script := []
  replies := []
  draws := 0

end Sys2Proof.Machine
end

