-- ==== Sys2Proof/Machine/Flags.lean ====
section
/-! DEFINITION. The only flags a host can observe, STATE and ERR as the STATUS word (R39, R86), and the three internal
predicates that steer the stages (R39). -/

namespace Sys2Proof.Machine

/-- The code of STATE in STATUS[1:0] (R25, R86). -/
def OpState.code : OpState → BitVec 2
  | .idle => 0#2
  | .busy => 1#2
  | .done => 2#2
  | .error => 3#2

/-- The code of ERR in STATUS[3:2] (R26, R86, R200). -/
def Err.code : Err → BitVec 2
  | .none => 0#2
  | .invalidMethod => 1#2
  | .malformedRLEStream => 2#2
  | .capacityExceeded => 3#2

/-- The STATUS word (R24, R86): bits 7:4 read as 0, ERR in 3:2, STATE in 1:0. Log 15. -/
def State.statusWord (s : State) : BitVec 8 := 0#4 ++ s.err.code ++ s.state.code

/-- `CNT = 0`: no run is open (R35, R39). -/
def State.noOpenRun (s : State) : Bool := decide (s.cnt = 0#8)

/-- `REM > 0`: copies are pending (R36, R39). -/
def State.copiesPending (s : State) : Bool := decide (0 < s.rem.toNat)

/-- `RP < SLEN`: the source is not exhausted (R31, R39). -/
def State.sourceLeft (s : State) : Bool := decide (s.rp < s.slen)

end Sys2Proof.Machine
end

