-- ==== Sys2Proof/Syntax.lean ====
section
/-! DEFINITION. The six commands of R84, one constructor per row of the opcode table. A command has no operand
field (R83): its input and its result are implicit. -/

namespace Sys2Proof

/-- The hardware's only instructions (R84). The four transform names of R93 are other names of four of these. -/
inductive Instr where
  /-- `COMPRESS.DELTARLE`, R172 -/
  | compressDeltaRle
  /-- `COMPRESS.RLEONLY`, R173 -/
  | compressRleOnly
  /-- `COMPRESS.DELTAONLY`, R174 -/
  | compressDeltaOnly
  /-- `DECOMPRESS.DELTARLE`, R175 -/
  | decompressDeltaRle
  /-- `DECOMPRESS.RLEONLY`, R176 -/
  | decompressRleOnly
  /-- `DECOMPRESS.DELTAONLY`, R177 -/
  | decompressDeltaOnly
  deriving DecidableEq, Repr

end Sys2Proof
end

