-- ==== Sys2Proof/WellFormed.lean ====
section
/-! DEFINITION. When a command, an instance's parameters and a host operation are well-formed. -/

namespace Sys2Proof

/-- Every command is well-formed: it has no operand, no immediate and no mode bit that could be out of range (R83, R91). -/
def Instr.wf : Instr → Bool
  | .compressDeltaRle => true
  | .compressRleOnly => true
  | .compressDeltaOnly => true
  | .decompressDeltaRle => true
  | .decompressRleOnly => true
  | .decompressDeltaOnly => true

/-- A number fits a register of `LEN_W` bits (R6, R187). -/
def Params.lengthFits (p : Params) (n : Nat) : Bool :=
  match p.lenW with
  | none => true
  | some w => decide (n < 2 ^ w)

/-- One capacity beside the width `LEN_W`: a finite width must leave room for the capacity plus one, and then the
capacity must be finite too, or a pointer could wrap (R6, R11, D22). Log 7. -/
def Params.capFits (p : Params) (c : Option Nat) : Bool :=
  match p.lenW, c with
  | none, _ => true
  | some _, none => false
  | some w, some c => decide (c + 1 < 2 ^ w)

/-- The constraint R6 sets on `LEN_W`. -/
def Params.wf (p : Params) : Bool := p.capFits p.icap && p.capFits p.mcap && p.capFits p.ocap

/-- `H_WRITE_ILEN n` exists only for `n` below 2^`LEN_W` (R187); every other host operation has no bound on its
operand (R186, R188, R192). -/
def Machine.HostOp.wf (p : Params) : Machine.HostOp → Bool
  | .writeIlen n => p.lengthFits n
  | .writeIbuf _ _ => true
  | .writeCmd _ => true
  | .start => true
  | .readStatus => true
  | .readOlen => true
  | .readObuf _ => true
  | .readCmd => true
  | .readIlen => true

end Sys2Proof
end

