-- ==== Sys2Proof/Machine/Ops.lean ====
section
/-! DEFINITION. The named operations: buffers (R53, R56, R58), `raise`, which is all there is to taking an error (R205),
`StageInit` (R182), the two ends of a stage (R183), reset (R230), and the draws of unspecified values (R13). -/

namespace Sys2Proof.Machine

/-- The byte at an index of a buffer, `none` where nothing has been written. -/
def Memory.read : Memory → Nat → Option Byte
  | [], _ => none
  | (k, v) :: m, a => if k = a then some v else Memory.read m a

/-- A buffer with the byte `v` at index `a`, in canonical form. -/
def Memory.write : Memory → Nat → Byte → Memory
  | [], a, v => [(a, v)]
  | (k, u) :: m, a, v =>
    if a < k then (a, v) :: (k, u) :: m
    else if a = k then (a, v) :: m
    else (k, u) :: Memory.write m a v

/-- The canonical form: indices strictly rising. -/
def Memory.wf : Memory → Bool
  | [] => true
  | [_] => true
  | (k, _) :: (k', v') :: m => decide (k < k') && Memory.wf ((k', v') :: m)

/-- The capacity of a buffer, `none` for infinite (R6, R50 to R52). -/
def Params.cap (p : Params) : Space → Option Nat
  | .ibuf => p.icap
  | .mbuf => p.mcap
  | .obuf => p.ocap

/-- `a < cap` (R58); always so where the capacity is infinite. -/
def indexFits (a : Nat) : Option Nat → Bool
  | none => true
  | some c => decide (a < c)

/-- `n ≤ cap`: a sequence of `n` bytes fits the buffer (R178, R185). -/
def lengthWithin (n : Nat) : Option Nat → Bool
  | none => true
  | some c => decide (n ≤ c)

/-- The contents of a buffer. -/
def State.buffer (s : State) : Space → Memory
  | .ibuf => s.ibuf
  | .mbuf => s.mbuf
  | .obuf => s.obuf

/-- `MemRead(S:a, 1)` (R12, R56), `none` where the byte is unwritten. -/
def State.memRead (s : State) (sp : Space) (a : Nat) : Option Byte := (s.buffer sp).read a

/-- `MemWrite(S:a, 1, v)` (R12, R56), the capacity check made (R58). -/
def State.memWrite (s : State) (sp : Space) (a : Nat) (v : Byte) : State :=
  match sp with
  | .ibuf => { s with ibuf := s.ibuf.write a v }
  | .mbuf => { s with mbuf := s.mbuf.write a v }
  | .obuf => { s with obuf := s.obuf.write a v }

/-- The check of R58 for a write that ends at index `a` of a buffer. -/
def State.hasRoom (s : State) (sp : Space) (a : Nat) : Bool := indexFits a (Params.cap s.params sp)

/-- `raise E` (R205): STATE, ERR and OLEN, and nothing else. -/
def raise (e : Err) (s : State) : State := { s with state := .error, err := e, olen := 0 }

/-- `StageInit` (R182): six registers cleared; CUR and VAL left as they are. -/
def stageInit (s : State) : State :=
  { s with rp := 0, wp := 0, prev := 0#8, acc := 0#8, cnt := 0#8, rem := 0#8 }

/-- `StageDone` of the last stage (R183): the operation has succeeded. -/
def finishOperation (s : State) : State := { s with olen := s.wp, state := .done }

/-- `StageDone` of stage 0 of two (R183): MLEN and SLEN take the old WP, then `StageInit`. -/
def enterStageOne (s : State) : State := stageInit { s with mlen := s.wp, slen := s.wp, stg := 1 }

/-- The start of an admitted operation (R178): OLEN and ERR cleared, BUSY, stage 0, its source length, `StageInit`. -/
def beginOperation (s : State) : State :=
  stageInit { s with olen := 0, err := .none, state := .busy, stg := 0, slen := s.ilen }

/-- The reset event (R230, R231): the machine as after power-on, which R230 says is the same event. The instance's
parameters stay, and so do the model's own records of the outside (log 13). -/
def resetEvent (s : State) : State :=
  { State.reset with params := s.params, script := s.script, replies := s.replies, draws := s.draws }

/-- What a host read returned is noted; the machine itself does not change (R190 to R193). Log 11. -/
def State.answer (s : State) (r : Reply) : State := { s with replies := r :: s.replies }

/-- One unspecified value has been drawn (R13). Log 5. -/
def State.drawn (s : State) : State := { s with draws := s.draws + 1 }

/-- An unspecified number of the width `LEN_W` (R13, R191): the free value, kept within the width. Log 5. -/
def State.freeLength (s : State) : Nat :=
  match s.params.lenW with
  | none => Config.freeLength s.draws
  | some w => Config.freeLength s.draws % 2 ^ w

end Sys2Proof.Machine
end

