-- ==== Sys2Proof/Machine/Operands.lean ====
section
/-! DEFINITION. The implicit operand and result of a command (R83), and what a command makes of the buffers: its
schedule (R180) and its start-time parity check (R178). -/

namespace Sys2Proof.Machine

/-- The `n` bytes of a buffer from index `a` on, `none` if one of them is unwritten. -/
def Memory.readSeq (m : Memory) : Nat → Nat → Option (List Byte)
  | _, 0 => some []
  | a, n + 1 =>
    match m.read a, Memory.readSeq m (a + 1) n with
    | some b, some x => some (b :: x)
    | _, _ => none

/-- The input of the next operation, `IBUF[0..ILEN-1]` (R22, R83). -/
def State.input (s : State) : Option (List Byte) := s.ibuf.readSeq 0 s.ilen

/-- The result of a finished operation, `OBUF[0..OLEN-1]` (R23, R83). -/
def State.result (s : State) : Option (List Byte) := s.obuf.readSeq 0 s.olen

/-- The schedule of a command (R180). -/
def sched : Instr → List Stage
  | .compressDeltaRle => [⟨.denc, .ibuf, .mbuf⟩, ⟨.renc, .mbuf, .obuf⟩]
  | .compressRleOnly => [⟨.renc, .ibuf, .obuf⟩]
  | .compressDeltaOnly => [⟨.denc, .ibuf, .obuf⟩]
  | .decompressDeltaRle => [⟨.rdec, .ibuf, .mbuf⟩, ⟨.ddec, .mbuf, .obuf⟩]
  | .decompressRleOnly => [⟨.rdec, .ibuf, .obuf⟩]
  | .decompressDeltaOnly => [⟨.ddec, .ibuf, .obuf⟩]

/-- The active stage of a command, `sched(..)[STG]` (R180); `none` where the schedule has no such stage. -/
def activeStage (i : Instr) (s : State) : Option Stage := (sched i)[s.stg.val]?

/-- The commands that decode RLE records, whose input length must be even (R178, R202). -/
def parityChecked : Instr → Bool
  | .decompressDeltaRle | .decompressRleOnly => true
  | .compressDeltaRle | .compressRleOnly | .compressDeltaOnly | .decompressDeltaOnly => false

end Sys2Proof.Machine
end

