-- ==== Sys2Proof/Decode.lean ====
section
/-! DEFINITION. The decoder of R84, total on the 2^17 command words and rejecting by name, and after it the encoder,
both from the format CMD17 of R80 and the selectors of R81. -/

namespace Sys2Proof

/-- Why a command word is no command: its selector is none of the three (R85). -/
inductive Reject where
  | invalidMethod
  deriving DecidableEq, Repr

/-- `CMD.DIR`, bit 16: 0 compress, 1 decompress (R80, R82). -/
def cmdDir (c : Cmd) : BitVec 1 := c.extractLsb' 16 1

/-- `CMD.METHOD`, bits 15:0 (R80). -/
def cmdMethod (c : Cmd) : BitVec 16 := c.extractLsb' 0 16

/-- The selector `"01"`, the characters `0x30` and `0x31` (R81). Log 10. -/
def selDeltaRle : BitVec 16 := 0x3031#16

/-- The selector `"02"` (R81). -/
def selRleOnly : BitVec 16 := 0x3032#16

/-- The selector `"03"` (R81). -/
def selDeltaOnly : BitVec 16 := 0x3033#16

/-- The decoder of R84: look the selector up among the three values; if absent the command is illegal (R85). -/
def decode (c : Cmd) : Except Reject Instr :=
  if cmdMethod c = selDeltaRle then
    .ok (if cmdDir c = 0#1 then .compressDeltaRle else .decompressDeltaRle)
  else if cmdMethod c = selRleOnly then
    .ok (if cmdDir c = 0#1 then .compressRleOnly else .decompressRleOnly)
  else if cmdMethod c = selDeltaOnly then
    .ok (if cmdDir c = 0#1 then .compressDeltaOnly else .decompressDeltaOnly)
  else .error .invalidMethod

/-- The direction bit of a command (R82). -/
def Instr.dir : Instr → BitVec 1
  | .compressDeltaRle | .compressRleOnly | .compressDeltaOnly => 0#1
  | .decompressDeltaRle | .decompressRleOnly | .decompressDeltaOnly => 1#1

/-- The selector of a command (R81, R84). -/
def Instr.selector : Instr → BitVec 16
  | .compressDeltaRle | .decompressDeltaRle => selDeltaRle
  | .compressRleOnly | .decompressRleOnly => selRleOnly
  | .compressDeltaOnly | .decompressDeltaOnly => selDeltaOnly

/-- The word of a command, `{DIR, METHOD}` (R80). -/
def encode (i : Instr) : Cmd := i.dir ++ i.selector

/-- The decoder on a word given as a number of `nbits` bits, bits above `nbits` being 0; a number that 17 bits cannot
hold is no command word (R80). -/
def decodeTableWord (nbits w : Nat) : Option Instr :=
  let v := w % 2 ^ nbits
  if v < 2 ^ 17 then
    match decode (BitVec.ofNat 17 v) with
    | .ok i => some i
    | .error _ => none
  else none

end Sys2Proof
end

