-- ==== Sys2Proof/Machine/Transforms.lean ====
section
/-! DEFINITION. The function level of the spec (R7, normative): the four transforms, `compress` and `decompress` as pure
functions on byte sequences. The step level is in Stages.lean and Operation.lean; R185 ties the two. -/

namespace Sys2Proof.Machine

/-- A byte sequence (R10). -/
abbrev ByteSeq := List Byte

/-- `(a − b) mod 256` on bytes, through the integers (R11, R102). -/
def subMod (a b : Byte) : Byte := BitVec.ofInt 8 ((a.toNat : Int) - (b.toNat : Int))

/-- `(a + b) mod 256` on bytes (R11, R117). -/
def addMod (a b : Byte) : Byte := BitVec.ofNat 8 (a.toNat + b.toNat)

/-- The differences of R100 after a byte `p`: each byte minus the input byte before it. -/
def deltaDiffs (p : Byte) : ByteSeq → ByteSeq
  | [] => []
  | b :: x => subMod b p :: deltaDiffs b x

/-- `deltaEncode`, R100: the first byte as it is, then the differences. -/
def deltaEncode : ByteSeq → ByteSeq
  | [] => []
  | b :: x => b :: deltaDiffs b x

/-- The running sums of R115 after an output byte `o`: each byte plus the output byte before it. -/
def deltaSums (o : Byte) : ByteSeq → ByteSeq
  | [] => []
  | b :: y => addMod b o :: deltaSums (addMod b o) y

/-- `deltaDecode`, R115: the first byte as it is, then the running sums. -/
def deltaDecode : ByteSeq → ByteSeq
  | [] => []
  | b :: y => b :: deltaSums b y

/-- The length of the longest prefix all of whose bytes equal `v` (R130). -/
def runPrefix (v : Byte) : ByteSeq → Nat
  | [] => 0
  | b :: x => if b = v then runPrefix v x + 1 else 0

/-- R130's recursion, on a bound of the input's length. -/
def rleEncodeUpTo : Nat → ByteSeq → ByteSeq
  | 0, _ => []
  | _ + 1, [] => []
  | n + 1, v :: x =>
    let m := min (runPrefix v (v :: x)) Config.runMax
    v :: BitVec.ofNat 8 m :: rleEncodeUpTo n ((v :: x).drop m)

/-- `rleEncode`, R130: maximal runs from the left, capped at `RUN_MAX`, as records `[value, runLength]`. -/
def rleEncode (x : ByteSeq) : ByteSeq := rleEncodeUpTo x.length x

/-- `rleDecode`, R150: record by record; `none` is `MalformedRLEStream`, the odd length of R151. A run length of 0
appends nothing (R154). -/
def rleDecode : ByteSeq → Option ByteSeq
  | [] => some []
  | [_] => none
  | v :: n :: s =>
    match rleDecode s with
    | none => none
    | some y => some (List.replicate n.toNat v ++ y)

/-- `compress`, R170, by the method selector. -/
def compress (data : ByteSeq) (method : BitVec 16) : Except Err ByteSeq :=
  if method = selDeltaRle then .ok (rleEncode (deltaEncode data))
  else if method = selRleOnly then .ok (rleEncode data)
  else if method = selDeltaOnly then .ok (deltaEncode data)
  else .error .invalidMethod

/-- The result of an inner `rleDecode` carried on: its error is the error of the whole (R171). -/
def orMalformed : Option ByteSeq → Except Err ByteSeq
  | none => .error .malformedRLEStream
  | some y => .ok y

/-- `decompress`, R171, by the method selector; the method test comes first. -/
def decompress (data : ByteSeq) (method : BitVec 16) : Except Err ByteSeq :=
  if method = selDeltaRle then orMalformed ((rleDecode data).map deltaDecode)
  else if method = selRleOnly then orMalformed (rleDecode data)
  else if method = selDeltaOnly then .ok (deltaDecode data)
  else .error .invalidMethod

/-- The function-level result of a command word on an input (R185): `compress` or `decompress` as DIR says. -/
def functionLevel (c : Cmd) (data : ByteSeq) : Except Err ByteSeq :=
  if cmdDir c = 0#1 then compress data (cmdMethod c) else decompress data (cmdMethod c)

/-- The intermediate sequence of a `DeltaRLE` operation (R172, R175, R185); the other methods have none. -/
def intermediate (i : Instr) (data : ByteSeq) : Option ByteSeq :=
  match i with
  | .compressDeltaRle => some (deltaEncode data)
  | .decompressDeltaRle => rleDecode data
  | .compressRleOnly | .compressDeltaOnly | .decompressRleOnly | .decompressDeltaOnly => none

end Sys2Proof.Machine
end

