-- ==== Sys2Proof/Machine/Stages.lean ====
section
/-! DEFINITION. The core step (R181): one step of each of the four stage kinds, and `StageDone`. All right-hand sides
read the values from before the step, and a `raise` abandons the step's other writes (R12). -/

namespace Sys2Proof.Machine

/-- What a step answers. -/
abbrev Answer := Host.Outcome State Fault Refusal

/-- `StageDone` (R183): the last stage ends the operation, stage 0 of two hands over to stage 1. -/
def stageDone (i : Instr) (s : State) : State :=
  if s.stg.val + 1 = (sched i).length then finishOperation s else enterStageOne s

/-- One byte consumed and one produced, the common part of R104 and R119: the byte `o` is written after the capacity
check, and `keep` sets the stage's own register. -/
def produce (st : Stage) (o : Byte) (keep : State → State) (s : State) : State :=
  if s.hasRoom st.dst s.wp then
    keep { s.memWrite st.dst s.wp o with rp := s.rp + 1, wp := s.wp + 1 }
  else raise .capacityExceeded s

/-- PREV takes the input byte just read (R33, R104). -/
def State.withPrev (b : Byte) (s : State) : State := { s with prev := b }

/-- ACC takes the output byte just written (R34, R119). -/
def State.withAcc (o : Byte) (s : State) : State := { s with acc := o }

/-- One step of a `DENC` stage (R104). -/
def dencStep (i : Instr) (st : Stage) (s : State) : Answer :=
  if s.sourceLeft then
    match s.memRead st.src s.rp with
    | none => .fault .unwrittenByte
    | some b => .next (produce st (subMod b s.prev) (State.withPrev b) s)
  else .next (stageDone i s)

/-- One step of a `DDEC` stage (R119). -/
def ddecStep (i : Instr) (st : Stage) (s : State) : Answer :=
  if s.sourceLeft then
    match s.memRead st.src s.rp with
    | none => .fault .unwrittenByte
    | some b => .next (produce st (addMod b s.acc) (State.withAcc (addMod b s.acc)) s)
  else .next (stageDone i s)

/-- `Emit(CUR, CNT)` (R136): both bytes of the record, value first, or neither; `none` is its `raise`. -/
def emit (st : Stage) (s : State) : Option State :=
  if s.hasRoom st.dst (s.wp + 1) then
    some { (s.memWrite st.dst s.wp s.cur).memWrite st.dst (s.wp + 1) s.cnt with wp := s.wp + 2 }
  else none

/-- A run of the byte `b` is opened with it (R135). -/
def State.openRun (b : Byte) (s : State) : State := { s with cur := b, cnt := 1#8, rp := s.rp + 1 }

/-- The open run grows by one byte (R135). -/
def State.growRun (s : State) : State := { s with cnt := s.cnt + 1#8, rp := s.rp + 1 }

/-- The open run has been emitted and none is open (R135). -/
def State.closeRun (s : State) : State := { s with cnt := 0#8 }

/-- The open run is emitted and `andThen` done, or `CapacityExceeded` raised (R135, R136). -/
def emitThen (st : Stage) (andThen : State → State) (s : State) : State :=
  match emit st s with
  | none => raise .capacityExceeded s
  | some s' => andThen s'

/-- One step of a `RENC` stage (R135). -/
def rencStep (i : Instr) (st : Stage) (s : State) : Answer :=
  if s.sourceLeft then
    match s.memRead st.src s.rp with
    | none => .fault .unwrittenByte
    | some b =>
      if s.noOpenRun then .next (s.openRun b)
      else if b = s.cur ∧ s.cnt.toNat < Config.runMax then .next s.growRun
      else .next (emitThen st (State.openRun b) s)
  else if s.noOpenRun then .next (stageDone i s)
  else .next (emitThen st State.closeRun s)

/-- One copy of VAL is written and counted off (R157). -/
def expand (st : Stage) (s : State) : State :=
  if s.hasRoom st.dst s.wp then
    { s.memWrite st.dst s.wp s.val with wp := s.wp + 1, rem := s.rem - 1#8 }
  else raise .capacityExceeded s

/-- A record is taken into VAL and REM (R157). -/
def State.takeRecord (v n : Byte) (s : State) : State := { s with val := v, rem := n, rp := s.rp + 2 }

/-- One step of an `RDEC` stage (R157). -/
def rdecStep (i : Instr) (st : Stage) (s : State) : Answer :=
  if s.copiesPending then .next (expand st s)
  else if s.sourceLeft then
    match s.memRead st.src s.rp, s.memRead st.src (s.rp + 1) with
    | some v, some n => .next (s.takeRecord v n)
    | _, _ => .fault .unwrittenByte
  else .next (stageDone i s)

/-- One step of a stage by its kind (R181). -/
def stageStep (i : Instr) (st : Stage) (s : State) : Answer :=
  match st.kind with
  | .denc => dencStep i st s
  | .ddec => ddecStep i st s
  | .renc => rencStep i st s
  | .rdec => rdecStep i st s

/-- The core step of a command (R181): one step of its active stage. -/
def coreStep (i : Instr) (s : State) : Answer :=
  match activeStage i s with
  | none => .fault .noActiveStage
  | some st => stageStep i st s

end Sys2Proof.Machine
end

