-- ==== Sys2Proof/Machine/Operation.lean ====
section
/-! DEFINITION. Starting an operation (R178) and running one to its end (R184). -/

namespace Sys2Proof.Machine

/-- `H_START` of a legal command in a state that is not BUSY (R178): the parity check, the input capacity check, then
the start. The order is the priority of R206. -/
def startCommand (i : Instr) (s : State) : State :=
  if parityChecked i && decide (s.ilen % 2 = 1) then raise .malformedRLEStream s
  else if lengthWithin s.ilen s.params.icap then beginOperation s
  else raise .capacityExceeded s

/-- `H_START` (R178, R189): ignored while BUSY; an illegal command word raises `InvalidMethod` first. -/
def hostStart (s : State) : State :=
  if s.state = .busy then s
  else
    match decode s.cmd with
    | .error _ => raise .invalidMethod s
    | .ok i => startCommand i s

/-- Core steps of a command until STATE ≠ BUSY, at most `n` of them. -/
def runCore (i : Instr) : Nat → State → Answer
  | 0, s => .next s
  | n + 1, s =>
    if s.state = .busy then
      match coreStep i s with
      | .next s' => runCore i n s'
      | .fault f => .fault f
      | .refused r => .refused r
    else .next s

/-- A bound on the core steps of an operation on `n` input bytes, by the counts of R184: at most `2n + 3` for a compress,
at most `n/2 + 2·255·n/2 + 2` for a decompress. Log 12. -/
def stepBound (n : Nat) : Nat := 256 * n + 4

/-- A whole operation of a command (R172 to R177): `H_START`, and if it is accepted the core steps up to the first state
that is not BUSY. While BUSY `H_START` is ignored and nothing changes (R178). Log 1. -/
def operation (i : Instr) (s : State) : Answer :=
  if s.state = .busy then .next s
  else runCore i (stepBound s.ilen) (startCommand i s)

end Sys2Proof.Machine
end

