-- ==== Sys2Proof/Machine/Compress.lean ====
section
/-! DEFINITION. The meanings of the three compress commands (R172, R173, R174). What distinguishes them is the schedule of
R180; none has a parity check (R178). -/

namespace Sys2Proof.Machine

/-- `COMPRESS.DELTARLE` (R172): `DENC` from IBUF to MBUF, then `RENC` from MBUF to OBUF. -/
def execCompressDeltaRle (s : State) : Answer := operation .compressDeltaRle s

/-- `COMPRESS.RLEONLY` (R173): `RENC` from IBUF to OBUF. -/
def execCompressRleOnly (s : State) : Answer := operation .compressRleOnly s

/-- `COMPRESS.DELTAONLY` (R174): `DENC` from IBUF to OBUF. -/
def execCompressDeltaOnly (s : State) : Answer := operation .compressDeltaOnly s

end Sys2Proof.Machine
end

