-- ==== Sys2Proof/Machine/Decompress.lean ====
section
/-! DEFINITION. The meanings of the three decompress commands (R175, R176, R177). What distinguishes them is the schedule
of R180 and the parity check of R178. -/

namespace Sys2Proof.Machine

/-- `DECOMPRESS.DELTARLE` (R175): parity check; `RDEC` from IBUF to MBUF, then `DDEC` from MBUF to OBUF. -/
def execDecompressDeltaRle (s : State) : Answer := operation .decompressDeltaRle s

/-- `DECOMPRESS.RLEONLY` (R176): parity check; `RDEC` from IBUF to OBUF. -/
def execDecompressRleOnly (s : State) : Answer := operation .decompressRleOnly s

/-- `DECOMPRESS.DELTAONLY` (R177): no parity check; `DDEC` from IBUF to OBUF. -/
def execDecompressDeltaOnly (s : State) : Answer := operation .decompressDeltaOnly s

end Sys2Proof.Machine
end

