-- ==== Sys2Proof/Machine/Dispatch.lean ====
section
/-! DEFINITION. One arm per command. -/

namespace Sys2Proof.Machine

def exec (i : Instr) (s : State) : Host.Outcome State Fault Refusal :=
  match i with
  | .compressDeltaRle => Sys2Proof.Machine.execCompressDeltaRle s
  | .compressRleOnly => Sys2Proof.Machine.execCompressRleOnly s
  | .compressDeltaOnly => Sys2Proof.Machine.execCompressDeltaOnly s
  | .decompressDeltaRle => Sys2Proof.Machine.execDecompressDeltaRle s
  | .decompressRleOnly => Sys2Proof.Machine.execDecompressRleOnly s
  | .decompressDeltaOnly => Sys2Proof.Machine.execDecompressDeltaOnly s

end Sys2Proof.Machine
end

