-- ==== Sys2Proof/Machine/HostOps.lean ====
section
/-! DEFINITION. The host operations (R186 to R193), each atomic, with the lock while BUSY (R64). -/

namespace Sys2Proof.Machine

/-- A host write: done when the machine is not BUSY, ignored while BUSY (R64). -/
def unlessBusy (write : State → State) (s : State) : State := if s.state = .busy then s else write s

/-- `H_WRITE_IBUF a, b` (R186): ignored while BUSY and at an index not below ICAP. -/
def hostWriteIbuf (a : Nat) (b : Byte) (s : State) : State :=
  unlessBusy (fun s => if s.hasRoom .ibuf a then s.memWrite .ibuf a b else s) s

/-- `H_WRITE_ILEN n` (R187): ignored while BUSY; a number above ICAP is accepted here. -/
def hostWriteIlen (n : Nat) (s : State) : State := unlessBusy (fun s => { s with ilen := n }) s

/-- `H_WRITE_CMD c` (R188): ignored while BUSY; illegal words are stored as given. -/
def hostWriteCmd (c : Cmd) (s : State) : State := unlessBusy (fun s => { s with cmd := c }) s

/-- `H_READ_OLEN` (R191): OLEN, or an unspecified value while BUSY. -/
def hostReadOlen (s : State) : State :=
  if s.state = .busy then (s.answer (.olen s.freeLength)).drawn else s.answer (.olen s.olen)

/-- The result byte a host read of OBUF is entitled to (R52, R192): in DONE, below OLEN. -/
def State.resultByte (s : State) (a : Nat) : Option Byte :=
  if s.state = .done ∧ a < s.olen then s.memRead .obuf a else none

/-- `H_READ_OBUF a` (R192): the result byte, and an unspecified value in every other case. -/
def hostReadObuf (a : Nat) (s : State) : State :=
  match s.resultByte a with
  | some b => s.answer (.obuf a b)
  | none => (s.answer (.obuf a (Config.freeByte s.draws))).drawn

/-- One host operation (R186 to R193). A length that `LEN_W` bits cannot hold is no operand of `H_WRITE_ILEN` (R187). -/
def hostOp (op : HostOp) (s : State) : Answer :=
  if op.wf s.params then
    match op with
    | .writeIbuf a b => .next (hostWriteIbuf a b s)
    | .writeIlen n => .next (hostWriteIlen n s)
    | .writeCmd c => .next (hostWriteCmd c s)
    | .start => .next (hostStart s)
    | .readStatus => .next (s.answer (.status s.statusWord))
    | .readOlen => .next (hostReadOlen s)
    | .readObuf a => .next (hostReadObuf a s)
    | .readCmd => .next (s.answer (.cmd s.cmd))
    | .readIlen => .next (s.answer (.ilen s.ilen))
  else .refused .lengthTooWide

end Sys2Proof.Machine
end

