-- ==== Sys2Proof/Machine/Turns.lean ====
section
/-! DEFINITION. What one event does: fetching the command, which is reading CMD (R67), and giving the core, the host or
reset its turn (R8). -/

namespace Sys2Proof.Machine

/-- The core's turn (R181): one core step of the command in CMD when BUSY, and no step otherwise. -/
def coreTurn (s : State) : Answer :=
  if s.state = .busy then
    match decode s.cmd with
    | .error _ => .fault .noActiveStage
    | .ok i => coreStep i s
  else .next s

/-- A whole operation of the command in CMD: a legal one is executed; an illegal word only takes `InvalidMethod` at
`H_START` (R85, R178, R201). -/
def executeCmd (s : State) : Answer :=
  match decode s.cmd with
  | .error _ => .next (hostStart s)
  | .ok i => exec i s

/-- One event. -/
def event (e : Event) (s : State) : Answer :=
  match e with
  | .host op => hostOp op s
  | .reset => .next (resetEvent s)
  | .core => coreTurn s
  | .execute => executeCmd s

/-- The state in which a command word is about to be executed: the word in CMD, the machine not BUSY, and one whole
operation as the next event. Log 8. -/
def placeCommand (c : Cmd) (s : State) : State :=
  { s with cmd := c, state := if s.state = .busy then .idle else s.state, script := .execute :: s.script }

end Sys2Proof.Machine
end

