-- ==== Sys2Proof/Machine/Step.lean ====
section
/-! DEFINITION. One step of the machine: the next event of the script, or, when the outside does nothing, the core's turn. -/

namespace Sys2Proof.Machine

/-- One step. With no event left only the core can act (R8); where it has no step either the state stays as it is (R184). -/
def step (s : State) : Host.Outcome State Fault Refusal :=
  match s.script with
  | [] => coreTurn s
  | e :: rest => event e { s with script := rest }

/-- The state in which the command word of number `w` is the next thing to run. -/
def State.withFetchWord (s : State) (nbits w : Nat) : State := placeCommand (BitVec.ofNat 17 (w % 2 ^ nbits)) s

end Sys2Proof.Machine
end

