-- ==== Sys2Proof/Safety.lean ====
section
/-! DEFINITION. The terms claims are made in: how an operation ends, the start of a stage, canonical RLE streams, and the
invariant that every step keeps. -/

namespace Sys2Proof.Machine

/-- An operation has ended with the result `y` (R23, R25, R185): DONE, no error, and OBUF below OLEN holds `y`. -/
abbrev Finished (t : State) (y : ByteSeq) : Prop :=
  t.state = .done ∧ t.err = .none ∧ t.olen = y.length ∧ t.result = some y

/-- An operation has ended with an error and an empty result (R23, R205, R207). -/
abbrev Failed (t : State) (e : Err) : Prop :=
  t.state = .error ∧ t.err = e ∧ t.olen = 0 ∧ t.result = some []

/-- The capacity condition of R185 for a command, its input and its result: the input fits IBUF, the result OBUF, and the
intermediate sequence, where there is one, MBUF. -/
def capacitiesSuffice (p : Params) (i : Instr) (x y : ByteSeq) : Bool :=
  lengthWithin x.length p.icap && lengthWithin y.length p.ocap &&
    match intermediate i x with
    | none => true
    | some mid => lengthWithin mid.length p.mcap

/-- The core is at the start of a stage of a command, and nothing else happens meanwhile: `StageInit` has just been done
(R178, R182, R183) and the script is empty. -/
abbrev StageStart (i : Instr) (st : Stage) (s : State) : Prop :=
  s.script = [] ∧ s.state = .busy ∧ decode s.cmd = .ok i ∧ activeStage i s = some st ∧
    s.rp = 0 ∧ s.wp = 0 ∧ s.prev = 0#8 ∧ s.acc = 0#8 ∧ s.cnt = 0#8 ∧ s.rem = 0#8

/-- `StageDone` as R183 writes it, StageInit (R182) written out. -/
abbrev afterStageDone (i : Instr) (s : State) : State :=
  if s.stg.val + 1 = (sched i).length then { s with olen := s.wp, state := .done }
  else
    { s with mlen := s.wp, slen := s.wp, stg := 1, rp := 0, wp := 0, prev := 0#8, acc := 0#8, cnt := 0#8, rem := 0#8 }

/-- A raise of `CapacityExceeded` as R205 writes it. -/
abbrev afterCapacityError (s : State) : State := { s with state := .error, err := .capacityExceeded, olen := 0 }

/-- The canonical RLE streams by R156's own characterisation: even length, every run length in 1..255, and a record whose
value is that of the next one is full. -/
def canonical (s : ByteSeq) : Prop :=
  s.length % 2 = 0 ∧
    (∀ j n, s[2 * j + 1]? = some n → n ≠ 0#8) ∧
    (∀ j v, s[2 * j]? = some v → s[2 * j + 2]? = some v → s[2 * j + 1]? = some 255#8)

/-- Every written index of a buffer is below its capacity (R50 to R52). -/
def withinCapacity (m : Memory) (cap : Option Nat) : Bool := m.all fun c => indexFits c.1 cap

/-- The three buffers are in canonical form and within their capacities. -/
abbrev State.BuffersOk (s : State) : Prop :=
  s.ibuf.wf = true ∧ s.mbuf.wf = true ∧ s.obuf.wf = true ∧ withinCapacity s.ibuf s.params.icap = true ∧
    withinCapacity s.mbuf s.params.mcap = true ∧ withinCapacity s.obuf s.params.ocap = true

/-- The parameters meet R6's constraint, and every length and pointer fits `LEN_W` bits (R6, R11). -/
abbrev State.LengthsOk (s : State) : Prop :=
  s.params.wf = true ∧ s.params.lengthFits s.ilen = true ∧ s.params.lengthFits s.olen = true ∧
    s.params.lengthFits s.slen = true ∧ s.params.lengthFits s.mlen = true ∧
    s.params.lengthFits s.rp = true ∧ s.params.lengthFits s.wp = true

/-- What R23, R25 and R26 say of the visible registers outside a step. -/
abbrev State.StatusOk (s : State) : Prop :=
  (s.err = .none ↔ s.state ≠ .error) ∧ (s.state ≠ .done → s.olen = 0) ∧
    (s.state = .done → s.result.isSome = true ∧ lengthWithin s.olen s.params.ocap = true)

/-- What each stage kind keeps of its own registers: R104 and R119 (`RP = WP` always), R35 and R135 (no run is open only at
the start or after the last byte), R28 and R157 (RP and SLEN even). -/
def kindOk (k : StageKind) (s : State) : Bool :=
  match k with
  | .denc => decide (s.rp = s.wp)
  | .ddec => decide (s.rp = s.wp)
  | .renc => decide (s.cnt = 0#8 → s.rp = 0 ∨ s.rp = s.slen)
  | .rdec => decide (s.slen % 2 = 0 ∧ s.rp % 2 = 0)

/-- While BUSY: CMD is legal and its active stage defined (R181); SLEN is the source's length (R30) and within its capacity
(R59); RP ≤ SLEN (R31); WP is within the destination's capacity (R58); every byte already produced is written, and so is
every byte of the intermediate sequence (R60). -/
def busyOk (s : State) : Bool :=
  match decode s.cmd with
  | .error _ => false
  | .ok i =>
    match activeStage i s with
    | none => false
    | some st =>
      decide (s.slen = if s.stg = 0 then s.ilen else s.mlen) &&
        lengthWithin s.slen (Params.cap s.params st.src) &&
        decide (s.rp ≤ s.slen) && lengthWithin s.wp (Params.cap s.params st.dst) &&
        ((s.buffer st.dst).readSeq 0 s.wp).isSome &&
        (decide (s.stg = 0) || (s.mbuf.readSeq 0 s.slen).isSome) && kindOk st.kind s

/-- The invariant: what the spec says holds of every state between two steps. -/
abbrev State.Inv (s : State) : Prop :=
  s.BuffersOk ∧ s.LengthsOk ∧ s.StatusOk ∧ (s.state = .busy → busyOk s = true)

/-- Every byte of every buffer outside the `k` bytes of one buffer from index `a` on reads as before. -/
abbrev WritesOnly (s t : State) (sp : Space) (a k : Nat) : Prop :=
  ∀ sp' a', ¬(sp' = sp ∧ a ≤ a' ∧ a' < a + k) → t.memRead sp' a' = s.memRead sp' a'

/-- `k` steps of the machine, stopping at the first fault or refusal. -/
def runSteps : Nat → State → Answer
  | 0, s => .next s
  | k + 1, s =>
    match step s with
    | .next t => runSteps k t
    | .fault f => .fault f
    | .refused r => .refused r

/-- The next state of an answer, if it is one. -/
def nextOf : Answer → Option State
  | .next t => some t
  | .fault _ => none
  | .refused _ => none

end Sys2Proof.Machine
end

