-- ==== Sys2Proof/Certificates/Slice0/Obligations.lean ====
section
/-! DEFINITION. The statements about the model, each with the rule of spec/ it rests on. -/

open Sys2Proof Sys2Proof.Machine

/-! ## Encodings -/

/-- R84, R80, R81: the six command words, written out from DIR and the two characters, and some words that are none (R85). -/
def Obligations.CommandWordsDecode : Prop :=
  decode 0x03031#17 = .ok .compressDeltaRle ∧ decode 0x03032#17 = .ok .compressRleOnly ∧
  decode 0x03033#17 = .ok .compressDeltaOnly ∧ decode 0x13031#17 = .ok .decompressDeltaRle ∧
  decode 0x13032#17 = .ok .decompressRleOnly ∧ decode 0x13033#17 = .ok .decompressDeltaOnly ∧
  decode 0x00000#17 = .error .invalidMethod ∧ decode 0x03130#17 = .error .invalidMethod ∧
  decode 0x03030#17 = .error .invalidMethod ∧ decode 0x03034#17 = .error .invalidMethod ∧
  decode 0x03939#17 = .error .invalidMethod ∧ decode 0x13939#17 = .error .invalidMethod

/-- R80, R84, R85: over all 2^17 words, a word decodes to a command exactly when it is that command's encoding, its fields
are the command's direction and selector, and a word is rejected exactly when its METHOD is none of the three. -/
def Obligations.DecodeExactlyEncodings : Prop :=
  ∀ (c : Cmd) (i : Instr),
    (decode c = .ok i ↔ c = encode i) ∧
    (decode c = .ok i ↔ cmdDir c = i.dir ∧ cmdMethod c = i.selector) ∧
    (decode c = .error .invalidMethod ↔
      cmdMethod c ≠ 0x3031#16 ∧ cmdMethod c ≠ 0x3032#16 ∧ cmdMethod c ≠ 0x3033#16)

/-- R24, R86: the fields of STATUS at their bits and with their codes, and, under the invariant, the six words that can be
read. -/
def Obligations.StatusWordFormat : Prop :=
  ∀ s : State,
    s.statusWord.toNat =
      (match s.state with | .idle => 0 | .busy => 1 | .done => 2 | .error => 3) +
      4 * (match s.err with | .none => 0 | .invalidMethod => 1 | .malformedRLEStream => 2 | .capacityExceeded => 3) ∧
    (s.Inv → s.statusWord ∈ [0x00#8, 0x01#8, 0x02#8, 0x07#8, 0x0B#8, 0x0F#8])

/-! ## Reset -/

/-- R43: the values the spec gives for reset. -/
def Obligations.ResetVisibleRegisters : Prop :=
  State.reset.cmd = 0#17 ∧ State.reset.ilen = 0 ∧ State.reset.olen = 0 ∧ State.reset.state = .idle ∧
  State.reset.err = .none ∧ State.reset.statusWord = 0x00#8 ∧ decode State.reset.cmd = .error .invalidMethod

/-- R230, R231: reset in any state, BUSY or not: CMD, ILEN, OLEN and STATUS 0. Nothing is said of what R230
leaves unspecified. -/
def Obligations.ResetEventEffect : Prop :=
  ∀ (s : State) (rest : List Event), s.script = .reset :: rest →
    ∃ t, step s = .next t ∧ t.cmd = 0#17 ∧ t.ilen = 0 ∧ t.olen = 0 ∧ t.state = .idle ∧ t.err = .none ∧
      t.statusWord = 0x00#8 ∧ t.script = rest

/-! ## Host operations -/

/-- R186: the byte is written when the machine is not BUSY and the index is below ICAP; otherwise nothing changes. -/
def Obligations.HostWritesInputByte : Prop :=
  ∀ (s : State) (a : Nat) (b : Byte) (rest : List Event), s.script = .host (.writeIbuf a b) :: rest →
    ∃ t, step s = .next t ∧ t = { s with script := rest, ibuf := t.ibuf } ∧
      (s.state ≠ .busy → indexFits a s.params.icap = true →
        t.ibuf.read a = some b ∧ WritesOnly s t .ibuf a 1) ∧
      (s.state = .busy ∨ indexFits a s.params.icap = false → t.ibuf = s.ibuf)

/-- R187: any number of `LEN_W` bits is stored when the machine is not BUSY, also one above ICAP. -/
def Obligations.HostWritesInputLength : Prop :=
  ∀ (s : State) (n : Nat) (rest : List Event), s.script = .host (.writeIlen n) :: rest →
    s.params.lengthFits n = true →
    step s = .next { s with script := rest, ilen := if s.state = .busy then s.ilen else n }

/-- Log 7, the model's choice: a number that `LEN_W` bits cannot hold is refused, since R187 gives no such operation. -/
def Obligations.TooWideLengthRefused : Prop :=
  ∀ (s : State) (n : Nat) (rest : List Event), s.script = .host (.writeIlen n) :: rest →
    s.params.lengthFits n = false → step s = .refused .lengthTooWide

/-- R188: any 17-bit value is stored when the machine is not BUSY, legal or not, and nothing starts. -/
def Obligations.HostWritesCommand : Prop :=
  ∀ (s : State) (c : Cmd) (rest : List Event), s.script = .host (.writeCmd c) :: rest →
    step s = .next { s with script := rest, cmd := if s.state = .busy then s.cmd else c }

/-- R178: `H_START`, the three tests in their order, and the start with `StageInit` written out. -/
def Obligations.HostStartPseudocode : Prop :=
  ∀ (s : State) (rest : List Event), s.script = .host .start :: rest →
    step s = .next
      (if s.state = .busy then { s with script := rest }
       else if cmdMethod s.cmd ≠ 0x3031#16 ∧ cmdMethod s.cmd ≠ 0x3032#16 ∧ cmdMethod s.cmd ≠ 0x3033#16 then
         { s with script := rest, state := .error, err := .invalidMethod, olen := 0 }
       else if cmdDir s.cmd = 1#1 ∧ (cmdMethod s.cmd = 0x3031#16 ∨ cmdMethod s.cmd = 0x3032#16) ∧ s.ilen % 2 = 1 then
         { s with script := rest, state := .error, err := .malformedRLEStream, olen := 0 }
       else if lengthWithin s.ilen s.params.icap = false then
         { s with script := rest, state := .error, err := .capacityExceeded, olen := 0 }
       else
         { s with script := rest, olen := 0, err := .none, state := .busy, stg := 0, slen := s.ilen,
                  rp := 0, wp := 0, prev := 0#8, acc := 0#8, cnt := 0#8, rem := 0#8 })

/-- R190: the STATUS word, at any time, with no side effect. -/
def Obligations.HostReadsStatus : Prop :=
  ∀ (s : State) (rest : List Event), s.script = .host .readStatus :: rest →
    step s = .next { s with script := rest, replies := .status s.statusWord :: s.replies }

/-- R191: OLEN when not BUSY, which is 0 in IDLE and ERROR and the result's length in DONE; while BUSY some number of the
register's width, whichever (log 5). -/
def Obligations.HostReadsOutputLength : Prop :=
  ∀ (s : State) (rest : List Event), s.script = .host .readOlen :: rest →
    (s.state ≠ .busy → step s = .next { s with script := rest, replies := .olen s.olen :: s.replies }) ∧
    (s.state = .busy → ∃ n, s.params.lengthFits n = true ∧
      step s = .next { s with script := rest, replies := .olen n :: s.replies, draws := s.draws + 1 }) ∧
    (s.Inv → s.state = .idle ∨ s.state = .error → s.olen = 0) ∧
    (s.Inv → s.state = .done → ∃ y, s.result = some y ∧ s.olen = y.length)

/-- R192: the result byte in DONE below OLEN; in every other case some byte, whichever (log 5). -/
def Obligations.HostReadsOutputByte : Prop :=
  ∀ (s : State) (a : Nat) (rest : List Event), s.script = .host (.readObuf a) :: rest →
    (∀ b, s.state = .done → a < s.olen → s.obuf.read a = some b →
      step s = .next { s with script := rest, replies := .obuf a b :: s.replies }) ∧
    (¬(s.state = .done ∧ a < s.olen) → ∃ b,
      step s = .next { s with script := rest, replies := .obuf a b :: s.replies, draws := s.draws + 1 }) ∧
    (s.Inv → s.state = .done → a < s.olen → ∃ b, s.obuf.read a = some b)

/-- R193: CMD and ILEN, at any time, with no side effect. -/
def Obligations.HostReadsCommandAndLength : Prop :=
  ∀ (s : State) (rest : List Event),
    (s.script = .host .readCmd :: rest →
      step s = .next { s with script := rest, replies := .cmd s.cmd :: s.replies }) ∧
    (s.script = .host .readIlen :: rest →
      step s = .next { s with script := rest, replies := .ilen s.ilen :: s.replies })

/-- R64: while BUSY the host's writes and `H_START` change nothing, its reads of STATUS, CMD and ILEN return the true values,
its reads of OLEN and OBUF return some value, and no host operation changes any register or buffer. -/
def Obligations.HostLockedOutWhileBusy : Prop :=
  ∀ (s t : State) (op : HostOp) (rest : List Event), s.script = .host op :: rest → s.state = .busy →
    step s = .next t →
    t = { s with script := rest, replies := t.replies, draws := t.draws } ∧
    (match op with
     | .writeIbuf _ _ | .writeIlen _ | .writeCmd _ | .start => t.replies = s.replies ∧ t.draws = s.draws
     | .readStatus => t.replies = .status s.statusWord :: s.replies
     | .readCmd => t.replies = .cmd s.cmd :: s.replies
     | .readIlen => t.replies = .ilen s.ilen :: s.replies
     | .readOlen => ∃ n, t.replies = .olen n :: s.replies
     | .readObuf a => ∃ b, t.replies = .obuf a b :: s.replies)

/-! ## Core steps -/

/-- R104: one step of a `DENC` stage, and, under the invariant, `RP = WP`. -/
def Obligations.DeltaEncodeStep : Prop :=
  ∀ (i : Instr) (src dst : Space) (s : State), s.script = [] → s.state = .busy → decode s.cmd = .ok i →
    activeStage i s = some ⟨.denc, src, dst⟩ →
    (∀ b, s.rp < s.slen → s.memRead src s.rp = some b → indexFits s.wp (Params.cap s.params dst) = true →
      ∃ t v, step s = .next t ∧
        (v : Byte).toNat = (((b.toNat : Int) - (s.prev.toNat : Int)) % 256).toNat ∧
        t.memRead dst s.wp = some v ∧ WritesOnly s t dst s.wp 1 ∧
        t = { s with ibuf := t.ibuf, mbuf := t.mbuf, obuf := t.obuf, prev := b, rp := s.rp + 1, wp := s.wp + 1 }) ∧
    (∀ b, s.rp < s.slen → s.memRead src s.rp = some b → indexFits s.wp (Params.cap s.params dst) = false →
      step s = .next (afterCapacityError s)) ∧
    (¬s.rp < s.slen → step s = .next (afterStageDone i s)) ∧
    (s.Inv → s.rp = s.wp)

/-- R119: one step of a `DDEC` stage, and, under the invariant, `RP = WP`. -/
def Obligations.DeltaDecodeStep : Prop :=
  ∀ (i : Instr) (src dst : Space) (s : State), s.script = [] → s.state = .busy → decode s.cmd = .ok i →
    activeStage i s = some ⟨.ddec, src, dst⟩ →
    (∀ b, s.rp < s.slen → s.memRead src s.rp = some b → indexFits s.wp (Params.cap s.params dst) = true →
      ∃ t o, step s = .next t ∧
        (o : Byte).toNat = (b.toNat + s.acc.toNat) % 256 ∧
        t.memRead dst s.wp = some o ∧ WritesOnly s t dst s.wp 1 ∧
        t = { s with ibuf := t.ibuf, mbuf := t.mbuf, obuf := t.obuf, acc := o, rp := s.rp + 1, wp := s.wp + 1 }) ∧
    (∀ b, s.rp < s.slen → s.memRead src s.rp = some b → indexFits s.wp (Params.cap s.params dst) = false →
      step s = .next (afterCapacityError s)) ∧
    (¬s.rp < s.slen → step s = .next (afterStageDone i s)) ∧
    (s.Inv → s.rp = s.wp)

/-- R135 and R136: one step of a `RENC` stage, with `Emit` writing both bytes of the record or neither. -/
def Obligations.RunLengthEncodeStep : Prop :=
  ∀ (i : Instr) (src dst : Space) (s : State), s.script = [] → s.state = .busy → decode s.cmd = .ok i →
    activeStage i s = some ⟨.renc, src, dst⟩ →
    (∀ b, s.rp < s.slen → s.memRead src s.rp = some b →
      (s.cnt = 0#8 → step s = .next { s with cur := b, cnt := 1#8, rp := s.rp + 1 }) ∧
      (s.cnt ≠ 0#8 → b = s.cur → s.cnt.toNat < 255 →
        step s = .next { s with cnt := BitVec.ofNat 8 (s.cnt.toNat + 1), rp := s.rp + 1 }) ∧
      (s.cnt ≠ 0#8 → b ≠ s.cur ∨ s.cnt.toNat = 255 → indexFits (s.wp + 1) (Params.cap s.params dst) = true →
        ∃ t, step s = .next t ∧ t.memRead dst s.wp = some s.cur ∧ t.memRead dst (s.wp + 1) = some s.cnt ∧
          WritesOnly s t dst s.wp 2 ∧
          t = { s with ibuf := t.ibuf, mbuf := t.mbuf, obuf := t.obuf, cur := b, cnt := 1#8, rp := s.rp + 1, wp := s.wp + 2 }) ∧
      (s.cnt ≠ 0#8 → b ≠ s.cur ∨ s.cnt.toNat = 255 → indexFits (s.wp + 1) (Params.cap s.params dst) = false →
        step s = .next (afterCapacityError s))) ∧
    (¬s.rp < s.slen →
      (s.cnt ≠ 0#8 → indexFits (s.wp + 1) (Params.cap s.params dst) = true →
        ∃ t, step s = .next t ∧ t.memRead dst s.wp = some s.cur ∧ t.memRead dst (s.wp + 1) = some s.cnt ∧
          WritesOnly s t dst s.wp 2 ∧
          t = { s with ibuf := t.ibuf, mbuf := t.mbuf, obuf := t.obuf, cnt := 0#8, wp := s.wp + 2 }) ∧
      (s.cnt ≠ 0#8 → indexFits (s.wp + 1) (Params.cap s.params dst) = false →
        step s = .next (afterCapacityError s)) ∧
      (s.cnt = 0#8 → step s = .next (afterStageDone i s)))

/-- R157: one step of an `RDEC` stage, and, under the invariant, what the parity test guarantees of its source. -/
def Obligations.RunLengthDecodeStep : Prop :=
  ∀ (i : Instr) (src dst : Space) (s : State), s.script = [] → s.state = .busy → decode s.cmd = .ok i →
    activeStage i s = some ⟨.rdec, src, dst⟩ →
    (0 < s.rem.toNat → indexFits s.wp (Params.cap s.params dst) = true →
      ∃ t, step s = .next t ∧ t.memRead dst s.wp = some s.val ∧ WritesOnly s t dst s.wp 1 ∧
        t = { s with ibuf := t.ibuf, mbuf := t.mbuf, obuf := t.obuf, wp := s.wp + 1,
                     rem := BitVec.ofNat 8 (s.rem.toNat - 1) }) ∧
    (0 < s.rem.toNat → indexFits s.wp (Params.cap s.params dst) = false → step s = .next (afterCapacityError s)) ∧
    (∀ v n, s.rem = 0#8 → s.rp < s.slen → s.memRead src s.rp = some v → s.memRead src (s.rp + 1) = some n →
      step s = .next { s with val := v, rem := n, rp := s.rp + 2 }) ∧
    (s.rem = 0#8 → ¬s.rp < s.slen → step s = .next (afterStageDone i s)) ∧
    (s.Inv → src = .ibuf ∧ s.slen = s.ilen ∧ s.slen % 2 = 0 ∧ (s.rp < s.slen → s.rp + 1 < s.slen))

/-- R233 and log 4: a core step that is to read a byte nothing has written stops with the fault of that name. The byte is
the one at RP, or, in a parse step of `RDEC`, either byte of the record at RP and RP + 1; an expand step (REM above 0) reads
no byte. And no step of the machine stops with it otherwise than by reading an unwritten byte of IBUF below ILEN, in states
that meet the invariant. -/
def Obligations.UnwrittenInputFaults : Prop :=
  (∀ (i : Instr) (st : Stage) (s : State), s.script = [] → s.state = .busy → decode s.cmd = .ok i →
    activeStage i s = some st → (st.kind = .rdec → s.rem = 0#8) → s.rp < s.slen →
    (s.memRead st.src s.rp = none → step s = .fault .unwrittenByte) ∧
    (st.kind = .rdec → s.memRead st.src (s.rp + 1) = none → step s = .fault .unwrittenByte)) ∧
  (∀ s : State, s.Inv → step s = .fault .unwrittenByte → ∃ a, a < s.ilen ∧ s.ibuf.read a = none)

/-- R205: entering ERROR writes STATE, ERR and OLEN and nothing else, at `H_START` and in a core step alike; in a core step
the cause is `CapacityExceeded` (R206). -/
def Obligations.ErrorEntryWritesThreeFields : Prop :=
  ∀ s t : State, step s = .next t → t.state = .error → s.state ≠ .error →
    (∀ rest, s.script = .host .start :: rest →
      t = { s with script := rest, state := .error, err := t.err, olen := 0 } ∧ t.err ≠ .none) ∧
    (s.script = [] → t = { s with state := .error, err := .capacityExceeded, olen := 0 })

/-! ## Stage results -/

/-- R105: a `DENC` stage over a source that holds `x`: the state after `k` steps, the end after `n + 1` steps, or the raise at
the step that would write at the capacity. -/
def Obligations.DeltaEncodeStageResult : Prop :=
  ∀ (i : Instr) (src dst : Space) (s : State) (x : ByteSeq), StageStart i ⟨.denc, src, dst⟩ s →
    (s.buffer src).readSeq 0 s.slen = some x →
    (∀ k, k ≤ x.length → lengthWithin k (Params.cap s.params dst) = true →
      ∃ t, runSteps k s = .next t ∧ t.rp = k ∧ t.wp = k ∧
        (t.buffer dst).readSeq 0 k = some ((deltaEncode x).take k) ∧
        t.prev = (if k = 0 then 0#8 else (x[k - 1]?).getD 0#8)) ∧
    (lengthWithin x.length (Params.cap s.params dst) = true →
      ∃ u, runSteps x.length s = .next u ∧ u.wp = x.length ∧
        (u.buffer dst).readSeq 0 x.length = some (deltaEncode x) ∧
        runSteps (x.length + 1) s = .next (afterStageDone i u)) ∧
    (∀ c, Params.cap s.params dst = some c → c < x.length →
      ∃ u, runSteps c s = .next u ∧ u.wp = c ∧ runSteps (c + 1) s = .next (afterCapacityError u))

/-- R120: a `DDEC` stage over a source that holds `y`. -/
def Obligations.DeltaDecodeStageResult : Prop :=
  ∀ (i : Instr) (src dst : Space) (s : State) (y : ByteSeq), StageStart i ⟨.ddec, src, dst⟩ s →
    (s.buffer src).readSeq 0 s.slen = some y →
    (∀ k, k ≤ y.length → lengthWithin k (Params.cap s.params dst) = true →
      ∃ t, runSteps k s = .next t ∧ t.rp = k ∧ t.wp = k ∧
        (t.buffer dst).readSeq 0 k = some ((deltaDecode y).take k) ∧
        t.acc = (if k = 0 then 0#8 else ((deltaDecode y)[k - 1]?).getD 0#8)) ∧
    (lengthWithin y.length (Params.cap s.params dst) = true →
      ∃ u, runSteps y.length s = .next u ∧ u.wp = y.length ∧
        (u.buffer dst).readSeq 0 y.length = some (deltaDecode y) ∧
        runSteps (y.length + 1) s = .next (afterStageDone i u)) ∧
    (∀ c, Params.cap s.params dst = some c → c < y.length →
      ∃ u, runSteps c s = .next u ∧ u.wp = c ∧ runSteps (c + 1) s = .next (afterCapacityError u))

/-- R137: a `RENC` stage over a source that holds `x`: `n + 2` steps, or 1 when `n` is 0; the open record completes what has
been emitted to the encoding of what has been read; and the raise of the `Emit` that would cross the capacity. -/
def Obligations.RunLengthEncodeStageResult : Prop :=
  ∀ (i : Instr) (src dst : Space) (s : State) (x : ByteSeq), StageStart i ⟨.renc, src, dst⟩ s →
    (s.buffer src).readSeq 0 s.slen = some x →
    (∀ k t, k ≤ x.length → runSteps k s = .next t → t.state = .busy →
      t.rp = k ∧ ∃ out, (t.buffer dst).readSeq 0 t.wp = some out ∧
        out ++ (if t.cnt = 0#8 then [] else [t.cur, t.cnt]) = rleEncode (x.take k)) ∧
    (lengthWithin (rleEncode x).length (Params.cap s.params dst) = true →
      ∃ u, runSteps (if x = [] then 0 else x.length + 1) s = .next u ∧ u.wp = (rleEncode x).length ∧
        (u.buffer dst).readSeq 0 u.wp = some (rleEncode x) ∧
        runSteps ((if x = [] then 0 else x.length + 1) + 1) s = .next (afterStageDone i u)) ∧
    (lengthWithin (rleEncode x).length (Params.cap s.params dst) = false →
      ∃ k u, k ≤ x.length ∧ runSteps k s = .next u ∧ indexFits (u.wp + 1) (Params.cap s.params dst) = false ∧
        runSteps (k + 1) s = .next (afterCapacityError u))

/-- R158: an `RDEC` stage over a source that holds the records `x`: `p + q + 1` steps for `p` records giving `q` bytes; what has
been written and the copies pending are the decoding of what has been read; and the raise of the expand step that would
write at the capacity. -/
def Obligations.RunLengthDecodeStageResult : Prop :=
  ∀ (i : Instr) (src dst : Space) (s : State) (x y : ByteSeq), StageStart i ⟨.rdec, src, dst⟩ s →
    (s.buffer src).readSeq 0 s.slen = some x → rleDecode x = some y →
    (∀ k t, k ≤ x.length / 2 + y.length → runSteps k s = .next t → t.state = .busy →
      ∃ out, (t.buffer dst).readSeq 0 t.wp = some out ∧
        rleDecode (x.take t.rp) = some (out ++ List.replicate t.rem.toNat t.val)) ∧
    (lengthWithin y.length (Params.cap s.params dst) = true →
      ∃ u, runSteps (x.length / 2 + y.length) s = .next u ∧ u.wp = y.length ∧
        (u.buffer dst).readSeq 0 u.wp = some y ∧
        runSteps (x.length / 2 + y.length + 1) s = .next (afterStageDone i u)) ∧
    (∀ c, Params.cap s.params dst = some c → c < y.length →
      ∃ k u, k < x.length / 2 + y.length ∧ runSteps k s = .next u ∧ u.wp = c ∧ 0 < u.rem.toNat ∧
        runSteps (k + 1) s = .next (afterCapacityError u))

/-! ## The six commands -/

/-- R172: `COMPRESS.DELTARLE` on the input `x`, its result, its intermediate sequence in MBUF, and when it raises
`CapacityExceeded`. -/
def Obligations.CompressDeltaRleResult : Prop :=
  encode .compressDeltaRle = 0x03031#17 ∧ sched .compressDeltaRle = [⟨.denc, .ibuf, .mbuf⟩, ⟨.renc, .mbuf, .obuf⟩] ∧
  (∀ (s : State) (x : ByteSeq), s.state ≠ .busy → s.input = some x →
      (lengthWithin x.length s.params.icap = true → lengthWithin x.length s.params.mcap = true →
        lengthWithin (rleEncode (deltaEncode x)).length s.params.ocap = true →
        ∃ t, exec .compressDeltaRle s = .next t ∧ Finished t (rleEncode (deltaEncode x)) ∧
          t.mlen = x.length ∧ t.mbuf.readSeq 0 t.mlen = some (deltaEncode x)) ∧
      (¬(lengthWithin x.length s.params.icap = true ∧ lengthWithin x.length s.params.mcap = true ∧
        lengthWithin (rleEncode (deltaEncode x)).length s.params.ocap = true) →
        ∃ t, exec .compressDeltaRle s = .next t ∧ Failed t .capacityExceeded)) ∧
  rleEncode (deltaEncode []) = [] ∧
  (∀ (b : Byte) (n : Nat), b ≠ 0#8 → 2 ≤ n → n ≤ 256 →
    rleEncode (deltaEncode (List.replicate n b)) = [b, 1#8, 0#8, BitVec.ofNat 8 (n - 1)]) ∧
  (∀ b : Byte, rleEncode (deltaEncode [b]) = [b, 1#8]) ∧
  (∀ n : Nat, 1 ≤ n → n ≤ 255 → rleEncode (deltaEncode (List.replicate n 0#8)) = [0#8, BitVec.ofNat 8 n]) ∧
  rleEncode (deltaEncode [1#8, 2#8, 3#8, 4#8, 5#8]) = [1#8, 5#8] ∧
  rleEncode (deltaEncode [10#8, 10#8, 10#8, 12#8, 12#8]) = [10#8, 1#8, 0#8, 2#8, 2#8, 1#8, 0#8, 1#8]

/-- R173: `COMPRESS.RLEONLY` on the input `x`; MBUF and MLEN are untouched. -/
def Obligations.CompressRleOnlyResult : Prop :=
  encode .compressRleOnly = 0x03032#17 ∧ sched .compressRleOnly = [⟨.renc, .ibuf, .obuf⟩] ∧
  (∀ (s : State) (x : ByteSeq), s.state ≠ .busy → s.input = some x →
      (lengthWithin x.length s.params.icap = true → lengthWithin (rleEncode x).length s.params.ocap = true →
        ∃ t, exec .compressRleOnly s = .next t ∧ Finished t (rleEncode x) ∧ t.mbuf = s.mbuf ∧ t.mlen = s.mlen) ∧
      (¬(lengthWithin x.length s.params.icap = true ∧ lengthWithin (rleEncode x).length s.params.ocap = true) →
        ∃ t, exec .compressRleOnly s = .next t ∧ Failed t .capacityExceeded)) ∧
  rleEncode [1#8, 2#8, 3#8, 4#8] = [1#8, 1#8, 2#8, 1#8, 3#8, 1#8, 4#8, 1#8]

/-- R174: `COMPRESS.DELTAONLY` on the input `x`; MBUF and MLEN are untouched. -/
def Obligations.CompressDeltaOnlyResult : Prop :=
  encode .compressDeltaOnly = 0x03033#17 ∧ sched .compressDeltaOnly = [⟨.denc, .ibuf, .obuf⟩] ∧
  (∀ (s : State) (x : ByteSeq), s.state ≠ .busy → s.input = some x →
      (lengthWithin x.length s.params.icap = true → lengthWithin x.length s.params.ocap = true →
        ∃ t, exec .compressDeltaOnly s = .next t ∧ Finished t (deltaEncode x) ∧ t.olen = x.length ∧
          t.mbuf = s.mbuf ∧ t.mlen = s.mlen) ∧
      (¬(lengthWithin x.length s.params.icap = true ∧ lengthWithin x.length s.params.ocap = true) →
        ∃ t, exec .compressDeltaOnly s = .next t ∧ Failed t .capacityExceeded)) ∧
  deltaEncode [10#8, 10#8, 10#8, 12#8, 12#8] = [10#8, 0#8, 0#8, 2#8, 0#8]

/-- R175: `DECOMPRESS.DELTARLE` on the input `x`: `MalformedRLEStream` when its length is odd; otherwise the result, the
intermediate sequence in MBUF, and when it raises `CapacityExceeded`. -/
def Obligations.DecompressDeltaRleResult : Prop :=
  encode .decompressDeltaRle = 0x13031#17 ∧ sched .decompressDeltaRle = [⟨.rdec, .ibuf, .mbuf⟩, ⟨.ddec, .mbuf, .obuf⟩] ∧
  (∀ (s : State) (x : ByteSeq), s.state ≠ .busy → s.input = some x →
      (x.length % 2 = 1 → ∃ t, exec .decompressDeltaRle s = .next t ∧ Failed t .malformedRLEStream) ∧
      (∀ mid, rleDecode x = some mid →
        (lengthWithin x.length s.params.icap = true → lengthWithin mid.length s.params.mcap = true →
          lengthWithin mid.length s.params.ocap = true →
          ∃ t, exec .decompressDeltaRle s = .next t ∧ Finished t (deltaDecode mid) ∧
            t.mlen = mid.length ∧ t.olen = t.mlen ∧ t.mbuf.readSeq 0 t.mlen = some mid) ∧
        (¬(lengthWithin x.length s.params.icap = true ∧ lengthWithin mid.length s.params.mcap = true ∧
          lengthWithin mid.length s.params.ocap = true) →
          ∃ t, exec .decompressDeltaRle s = .next t ∧ Failed t .capacityExceeded))) ∧
  (rleDecode []).map deltaDecode = some [] ∧
  (rleDecode [10#8, 1#8, 0#8, 2#8, 2#8, 1#8, 0#8, 1#8]).map deltaDecode = some [10#8, 10#8, 10#8, 12#8, 12#8]

/-- R176: `DECOMPRESS.RLEONLY` on the input `x`; MBUF and MLEN are untouched. -/
def Obligations.DecompressRleOnlyResult : Prop :=
  encode .decompressRleOnly = 0x13032#17 ∧ sched .decompressRleOnly = [⟨.rdec, .ibuf, .obuf⟩] ∧
  (∀ (s : State) (x : ByteSeq), s.state ≠ .busy → s.input = some x →
      (x.length % 2 = 1 → ∃ t, exec .decompressRleOnly s = .next t ∧ Failed t .malformedRLEStream) ∧
      (∀ y, rleDecode x = some y →
        (lengthWithin x.length s.params.icap = true → lengthWithin y.length s.params.ocap = true →
          ∃ t, exec .decompressRleOnly s = .next t ∧ Finished t y ∧ t.mbuf = s.mbuf ∧ t.mlen = s.mlen) ∧
        (¬(lengthWithin x.length s.params.icap = true ∧ lengthWithin y.length s.params.ocap = true) →
          ∃ t, exec .decompressRleOnly s = .next t ∧ Failed t .capacityExceeded))) ∧
  rleDecode [0x41#8, 255#8, 0x41#8, 45#8] = some (List.replicate 300 0x41#8)

/-- R177: `DECOMPRESS.DELTAONLY` on the input `x`, of any length; MBUF and MLEN are untouched. -/
def Obligations.DecompressDeltaOnlyResult : Prop :=
  encode .decompressDeltaOnly = 0x13033#17 ∧ sched .decompressDeltaOnly = [⟨.ddec, .ibuf, .obuf⟩] ∧
  (∀ (s : State) (x : ByteSeq), s.state ≠ .busy → s.input = some x →
      (lengthWithin x.length s.params.icap = true → lengthWithin x.length s.params.ocap = true →
        ∃ t, exec .decompressDeltaOnly s = .next t ∧ Finished t (deltaDecode x) ∧ t.olen = x.length ∧
          t.mbuf = s.mbuf ∧ t.mlen = s.mlen) ∧
      (¬(lengthWithin x.length s.params.icap = true ∧ lengthWithin x.length s.params.ocap = true) →
        ∃ t, exec .decompressDeltaOnly s = .next t ∧ Failed t .capacityExceeded)) ∧
  deltaDecode [10#8, 0#8, 0#8, 2#8, 0#8] = [10#8, 10#8, 10#8, 12#8, 12#8]

/-- R178, log 1: a command issued while another operation runs is ignored. -/
def Obligations.CommandIgnoredWhileBusy : Prop :=
  ∀ (i : Instr) (s : State), s.state = .busy → exec i s = .next s

/-- R185: the table. From a state that is not BUSY, `H_START` and then core steps reach a state that is not BUSY, whose STATE,
ERR, OLEN and result are those of the function level, `CapacityExceeded` standing in only where a sequence does not fit. -/
def Obligations.TwoLevelsAgree : Prop :=
  ∀ (s : State) (x : ByteSeq), s.script = [.host .start] → s.state ≠ .busy → s.input = some x →
    ∃ k t, runSteps (k + 1) s = .next t ∧
      match functionLevel s.cmd x, decode s.cmd with
      | .error e, _ => Failed t e
      | .ok y, .ok i => if capacitiesSuffice s.params i x y = true then Finished t y else Failed t .capacityExceeded
      | .ok _, .error _ => False

/-- R172 to R177 with R178 and R181, log 1: the event `execute` is `H_START` followed by core steps, to the end of the
operation and to the same answer, fault or next state. -/
def Obligations.ExecuteIsStartThenCoreSteps : Prop :=
  ∀ (s : State) (rest : List Event), ∃ k,
    runSteps (k + 1) { s with script := .host .start :: (List.replicate k .core ++ rest) } =
      step { s with script := .execute :: rest }

/-- R184: every operation ends: from every BUSY state that meets the invariant and whose input is written, the core reaches
DONE or ERROR. -/
def Obligations.EveryOperationEnds : Prop :=
  ∀ s : State, s.Inv → s.state = .busy → s.script = [] → s.input.isSome = true →
    ∃ k t, runSteps k s = .next t ∧ (t.state = .done ∨ t.state = .error)

/-- R196: which command can raise what. -/
def Obligations.WhichCommandRaisesWhat : Prop :=
  ∀ (i : Instr) (s t : State), s.state ≠ .busy → exec i s = .next t →
    t.err ≠ .invalidMethod ∧
    (t.err = .malformedRLEStream ↔
      (i = .decompressDeltaRle ∨ i = .decompressRleOnly) ∧ s.ilen % 2 = 1) ∧
    (t.err = .capacityExceeded → s.params.icap ≠ none ∨ s.params.mcap ≠ none ∨ s.params.ocap ≠ none)

/-- R201: an illegal selector raises `InvalidMethod` at `H_START`, with either direction, whatever the input, before any core
step, and does nothing else. -/
def Obligations.IllegalMethodRaisesInvalidMethod : Prop :=
  ∀ (s : State) (e : Event) (rest : List Event), s.script = e :: rest → e = .host .start ∨ e = .execute →
    s.state ≠ .busy →
    cmdMethod s.cmd ≠ 0x3031#16 → cmdMethod s.cmd ≠ 0x3032#16 → cmdMethod s.cmd ≠ 0x3033#16 →
    step s = .next { s with script := rest, state := .error, err := .invalidMethod, olen := 0 }

/-- R202: an odd input length of the two RLE decompressions raises `MalformedRLEStream` before any byte is read, whatever the
bytes, written or not. -/
def Obligations.OddStreamRaisesMalformed : Prop :=
  ∀ (i : Instr) (s : State), i = .decompressDeltaRle ∨ i = .decompressRleOnly → s.state ≠ .busy → s.ilen % 2 = 1 →
    exec i s = .next { s with state := .error, err := .malformedRLEStream, olen := 0 } ∧
    (∀ rest, s.script = .host .start :: rest → decode s.cmd = .ok i →
      step s = .next { s with script := rest, state := .error, err := .malformedRLEStream, olen := 0 })

/-! ## Frames -/

/-- R173, R174, R176, R177, R42, R205: what a one-stage command leaves unchanged. The bytes it stores are those of OBUF below
WP, the number of bytes its stage has written: OLEN in DONE, and never more than OCAP. -/
def Obligations.OneStageCommandFrame : Prop :=
  ∀ (i : Instr) (s t : State),
    i = .compressRleOnly ∨ i = .compressDeltaOnly ∨ i = .decompressRleOnly ∨ i = .decompressDeltaOnly →
    exec i s = .next t →
    t.cmd = s.cmd ∧ t.ilen = s.ilen ∧ t.mlen = s.mlen ∧ t.params = s.params ∧ t.script = s.script ∧
    t.replies = s.replies ∧ t.draws = s.draws ∧
    (i ≠ .compressRleOnly → t.cur = s.cur) ∧ (i ≠ .decompressRleOnly → t.val = s.val) ∧
    (∀ a, t.ibuf.read a = s.ibuf.read a) ∧ (∀ a, t.mbuf.read a = s.mbuf.read a) ∧
    (∀ a, t.wp ≤ a → t.obuf.read a = s.obuf.read a) ∧ (t.state = .done → t.wp = t.olen) ∧
    (t.obuf = s.obuf ∨ lengthWithin t.wp s.params.ocap = true)

/-- R172, R175, R42, R205: what a two-stage command leaves unchanged. Stage 0 stores in MBUF below WP, below MLEN once it has
ended, and never more than MCAP; stage 1 stores in OBUF below WP, which is OLEN in DONE, and never more than OCAP. -/
def Obligations.TwoStageCommandFrame : Prop :=
  ∀ (i : Instr) (s t : State), i = .compressDeltaRle ∨ i = .decompressDeltaRle → exec i s = .next t →
    t.cmd = s.cmd ∧ t.ilen = s.ilen ∧ t.params = s.params ∧ t.script = s.script ∧
    t.replies = s.replies ∧ t.draws = s.draws ∧
    (i = .compressDeltaRle → t.val = s.val) ∧ (i = .decompressDeltaRle → t.cur = s.cur) ∧
    (t.stg = 0 → t.mlen = s.mlen) ∧
    (∀ a, t.ibuf.read a = s.ibuf.read a) ∧
    (∀ a, (if t.stg = 0 then t.wp else t.mlen) ≤ a → t.mbuf.read a = s.mbuf.read a) ∧
    (∀ a, (if t.stg = 0 then 0 else t.wp) ≤ a → t.obuf.read a = s.obuf.read a) ∧
    (t.state = .done → t.stg = 1 ∧ t.wp = t.olen) ∧
    (t.mbuf = s.mbuf ∨ lengthWithin (if t.stg = 0 then t.wp else t.mlen) s.params.mcap = true) ∧
    (t.obuf = s.obuf ∨ lengthWithin t.wp s.params.ocap = true)

/-- R42: the core never writes CMD, ILEN or any byte of IBUF, in a single step or in a whole operation. -/
def Obligations.CoreNeverWritesInputs : Prop :=
  ∀ s t : State, step s = .next t →
    (s.script = [] ∨ ∃ e rest, s.script = e :: rest ∧ (e = .core ∨ e = .execute ∨ e = .host .start)) →
    t.cmd = s.cmd ∧ t.ilen = s.ilen ∧ t.ibuf = s.ibuf ∧ t.params = s.params

/-! ## The whole machine -/

/-- The step runs the command in CMD: as a whole operation on the event `execute`, one core step at a time when the core has
its turn, and not at all when it is not BUSY (R8, R67, R181, R184). The event and the script are the model's (logs 1, 2). -/
def Obligations.StepRunsDecodedCommand : Prop :=
  ∀ (s : State) (i : Instr), decode s.cmd = .ok i →
    (∀ rest, s.script = .execute :: rest → step s = exec i { s with script := rest }) ∧
    (s.script = [] → s.state = .busy → step s = coreStep i s) ∧
    (∀ rest, s.script = .core :: rest → s.state = .busy → step s = coreStep i { s with script := rest }) ∧
    (s.script = [] → s.state ≠ .busy → step s = .next s)

/-- Log 8: a command word placed for execution runs in the very next step. -/
def Obligations.PlacedCommandRunsNext : Prop :=
  ∀ (s : State) (n w : Nat) (i : Instr), decodeTableWord n w = some i →
    step (s.withFetchWord n w) =
      exec i { s with cmd := encode i, state := if s.state = .busy then .idle else s.state }

/-- The invariant holds right after reset: the registers of R43, and, the model's choice, the working registers of log 3 and
the parameters of log 6. -/
def Obligations.InvariantAtReset : Prop := State.reset.Inv

/-- Every step keeps the invariant: buffers canonical and within capacity, lengths and pointers within `LEN_W` bits, the
visible registers as R23, R25 and R26 say, and the running stage as R28, R30, R31, R35, R58, R59 and R181 say. -/
def Obligations.StepKeepsInvariant : Prop :=
  ∀ s t : State, s.Inv → step s = .next t → t.Inv

/-- R181, R59: in a state that meets the invariant no step is without a stage, and where the input is written no step
faults. -/
def Obligations.NoFaultOnWrittenInput : Prop :=
  ∀ (s : State), s.Inv →
    step s ≠ .fault .noActiveStage ∧ (s.input.isSome = true → ∀ f, step s ≠ .fault f)

/-- R25: the only transitions of STATE; none leads back to IDLE except reset. -/
def Obligations.StateTransitions : Prop :=
  ∀ s t : State, step s = .next t →
    match s.script with
    | .reset :: _ => t.state = .idle
    | .host .start :: _ =>
      if s.state = .busy then t.state = .busy else t.state = .busy ∨ t.state = .error
    | .execute :: _ =>
      if s.state = .busy then t.state = .busy else t.state = .done ∨ t.state = .error
    | .host _ :: _ => t.state = s.state
    | .core :: _ | [] =>
      if s.state = .busy then t.state = .busy ∨ t.state = .done ∨ t.state = .error else t.state = s.state

/-- R37: the result of an operation is a function of CMD, ILEN, the input bytes and the capacities alone; and what a host
operation returns does not depend on the hidden registers or MBUF. -/
def Obligations.ResultIndependentOfHistory : Prop :=
  (∀ (s s' : State) (x : ByteSeq), s.state ≠ .busy → s'.state ≠ .busy → s.cmd = s'.cmd → s.ilen = s'.ilen →
    s.params.icap = s'.params.icap → s.params.mcap = s'.params.mcap → s.params.ocap = s'.params.ocap →
    s.input = some x → s'.input = some x →
    ∃ t t', step { s with script := [.execute] } = .next t ∧ step { s' with script := [.execute] } = .next t' ∧
      t.state = t'.state ∧ t.err = t'.err ∧ t.olen = t'.olen ∧ t.result = t'.result) ∧
  (∀ (s s' t t' : State) (op : HostOp) (rest : List Event), s.script = .host op :: rest →
    s' = { s with stg := s'.stg, slen := s'.slen, mlen := s'.mlen, rp := s'.rp, wp := s'.wp, prev := s'.prev,
                  acc := s'.acc, cur := s'.cur, cnt := s'.cnt, val := s'.val, rem := s'.rem, mbuf := s'.mbuf } →
    step s = .next t → step s' = .next t' → t.replies = t'.replies)

/-- R207: an operation ends in DONE with the whole function-level result of its whole input, every byte of which is then
written, or with an error and an empty result; CMD, ILEN and IBUF are as they were; and the document's two errors are met
before any work: `MalformedRLEStream` changes STATE, ERR and OLEN alone, and so does `InvalidMethod`, which no command that
decodes raises. -/
def Obligations.NoPartialResult : Prop :=
  (∀ (i : Instr) (s t : State), s.state ≠ .busy → exec i s = .next t →
    ((∃ x y, s.input = some x ∧ functionLevel (encode i) x = .ok y ∧ Finished t y) ∨ ∃ e, e ≠ .none ∧ Failed t e) ∧
    t.cmd = s.cmd ∧ t.ilen = s.ilen ∧ t.ibuf = s.ibuf ∧
    (t.err = .malformedRLEStream → t = { s with state := .error, err := .malformedRLEStream, olen := 0 }) ∧
    t.err ≠ .invalidMethod) ∧
  (∀ (s : State) (e : Event) (rest : List Event), s.script = e :: rest → e = .host .start ∨ e = .execute →
    s.state ≠ .busy → decode s.cmd = .error .invalidMethod →
    step s = .next { s with script := rest, state := .error, err := .invalidMethod, olen := 0 })

/-! ## Laws of the function level -/

/-- R102, R117: subtraction and addition mod 256. -/
def Obligations.ByteArithmeticWraps : Prop :=
  ∀ a b : Byte,
    (b.toNat ≤ a.toNat → (subMod a b).toNat = a.toNat - b.toNat) ∧
    (a.toNat < b.toNat → (subMod a b).toNat = a.toNat + 256 - b.toNat) ∧
    (a.toNat + b.toNat ≤ 255 → (addMod a b).toNat = a.toNat + b.toNat) ∧
    (255 < a.toNat + b.toNat → (addMod a b).toNat = a.toNat + b.toNat - 256) ∧
    subMod a b = a - b ∧ addMod a b = a + b

/-- R100: `deltaEncode` by its indices. -/
def Obligations.DeltaEncodeByIndex : Prop :=
  ∀ x : ByteSeq, (deltaEncode x).length = x.length ∧ (deltaEncode x)[0]? = x[0]? ∧
    ∀ i p b, 1 ≤ i → x[i - 1]? = some p → x[i]? = some b →
      ∃ d, (deltaEncode x)[i]? = some d ∧ d.toNat = (((b.toNat : Int) - (p.toNat : Int)) % 256).toNat

/-- R115: `deltaDecode` by its indices, from the output byte before, and as a running sum. -/
def Obligations.DeltaDecodeByIndex : Prop :=
  ∀ y : ByteSeq, (deltaDecode y).length = y.length ∧ (deltaDecode y)[0]? = y[0]? ∧
    (∀ i p b, 1 ≤ i → (deltaDecode y)[i - 1]? = some p → y[i]? = some b →
      ∃ o, (deltaDecode y)[i]? = some o ∧ o.toNat = (b.toNat + p.toNat) % 256) ∧
    ∀ i, i < y.length → ∃ o, (deltaDecode y)[i]? = some o ∧
      o.toNat = ((y.take (i + 1)).map BitVec.toNat).sum % 256

/-- R103, R118: the two delta transforms are inverse to each other, keep the length, and work left to right; a constant
sequence encodes to its first byte and zeros. -/
def Obligations.DeltaLaws : Prop :=
  (∀ x : ByteSeq, (deltaEncode x).length = x.length ∧ (deltaDecode x).length = x.length) ∧
  (∀ x : ByteSeq, deltaDecode (deltaEncode x) = x) ∧ (∀ y : ByteSeq, deltaEncode (deltaDecode y) = y) ∧
  (∀ (b : Byte) (n : Nat), deltaEncode (List.replicate (n + 1) b) = b :: List.replicate n 0#8) ∧
  (∀ (x : ByteSeq) (k : Nat), deltaEncode (x.take k) = (deltaEncode x).take k) ∧
  (∀ (y : ByteSeq) (k : Nat), deltaDecode (y.take k) = (deltaDecode y).take k) ∧
  deltaDecode [10#8, 0#8, 0#8, 2#8, 0#8] = [10#8, 10#8, 10#8, 12#8, 12#8]

/-- R130: the recursion that defines `rleEncode`. -/
def Obligations.RunLengthEncodeRecursion : Prop :=
  rleEncode [] = [] ∧
  ∀ (v : Byte) (x : ByteSeq) (k m : Nat), k = ((v :: x).takeWhile (fun b => b == v)).length → m = min k 255 →
    1 ≤ m ∧ rleEncode (v :: x) = v :: BitVec.ofNat 8 m :: rleEncode ((v :: x).drop m)

/-- R131: a maximal run of `k` equal bytes gives `k / 255` full records and then the remainder. -/
def Obligations.RunsSplitGreedily : Prop :=
  ∀ (v : Byte) (k : Nat) (y : ByteSeq), y.head? ≠ some v →
    rleEncode (List.replicate k v ++ y) =
      (List.replicate (k / 255) [v, 255#8]).flatten ++
        (if k % 255 = 0 then [] else [v, BitVec.ofNat 8 (k % 255)]) ++ rleEncode y

/-- R132: the shape of what `rleEncode` emits: even length, run lengths in 1..255, full records before a record of the same
value, run lengths that add up to the input's length, and records that spell out the input. -/
def Obligations.RunLengthEncodeShape : Prop :=
  ∀ x : ByteSeq,
    (rleEncode x).length % 2 = 0 ∧
    (∀ j n, (rleEncode x)[2 * j + 1]? = some n → 1 ≤ n.toNat ∧ n.toNat ≤ 255) ∧
    (∀ j v, (rleEncode x)[2 * j]? = some v → (rleEncode x)[2 * j + 2]? = some v →
      (rleEncode x)[2 * j + 1]? = some 255#8) ∧
    ∃ recs : List (Byte × Byte),
      rleEncode x = (recs.map fun r => [r.1, r.2]).flatten ∧
      (recs.map fun r => r.2.toNat).sum = x.length ∧
      (recs.map fun r => List.replicate r.2.toNat r.1).flatten = x

/-- R133: the size of what `rleEncode` emits, its two bounds, and the inputs that meet them. -/
def Obligations.RunLengthEncodeSizes : Prop :=
  rleEncode [] = [] ∧
  (∀ x : ByteSeq, 2 * ((x.length + 254) / 255) ≤ (rleEncode x).length ∧ (rleEncode x).length ≤ 2 * x.length) ∧
  (∀ x : ByteSeq, (∀ i p b, x[i]? = some p → x[i + 1]? = some b → p ≠ b) → (rleEncode x).length = 2 * x.length) ∧
  (∀ (b : Byte) (n : Nat), (rleEncode (List.replicate n b)).length = 2 * ((n + 254) / 255)) ∧
  rleEncode [1#8, 2#8, 3#8, 4#8] = [1#8, 1#8, 2#8, 1#8, 3#8, 1#8, 4#8, 1#8]

/-- R150, R151, R152, R154: `rleDecode` is the records one after the other, and its only error is the odd length. -/
def Obligations.RunLengthDecodeByRecords : Prop :=
  (∀ recs : List (Byte × Byte),
    rleDecode ((recs.map fun r => [r.1, r.2]).flatten) =
      some ((recs.map fun r => List.replicate r.2.toNat r.1).flatten)) ∧
  (∀ s : ByteSeq, rleDecode s = none ↔ s.length % 2 = 1)

/-- R156: the canonical streams, and on exactly which streams the encoder undoes the decoder; the decoder over a
concatenation; and that it accepts streams that are not canonical. -/
def Obligations.CanonicalStreams : Prop :=
  (∀ s : ByteSeq, (∃ x, s = rleEncode x) ↔ canonical s) ∧
  (∀ x : ByteSeq, rleDecode (rleEncode x) = some x) ∧
  (∀ s x : ByteSeq, rleDecode s = some x → (rleEncode x = s ↔ canonical s)) ∧
  (∀ s t : ByteSeq, s.length % 2 = 0 → t.length % 2 = 0 →
    rleDecode (s ++ t) = (rleDecode s).bind fun a => (rleDecode t).map fun b => a ++ b) ∧
  (∀ s, s = [7#8, 2#8, 7#8, 3#8] ∨ s = [7#8, 5#8] ∨ s = [7#8, 5#8, 8#8, 0#8] ∨ s = [7#8, 1#8, 7#8, 4#8] →
    rleDecode s = some (List.replicate 5 7#8))

/-- R194: the global round trip, at the function level and at the hardware: a compress that ends DONE, its result carried
over unchanged, and the decompress of the same method, give the original input. -/
def Obligations.GlobalRoundTrip : Prop :=
  (∀ (x : ByteSeq) (m : BitVec 16), m = 0x3031#16 ∨ m = 0x3032#16 ∨ m = 0x3033#16 →
    (∃ y, compress x m = .ok y ∧ decompress y m = .ok x) ∧ compress [] m = .ok [] ∧ decompress [] m = .ok []) ∧
  (∀ (s t u : State) (x y : ByteSeq) (j : Instr), s.state ≠ .busy → cmdDir s.cmd = 0#1 → s.input = some x →
    step { s with script := [.execute] } = .next t → t.state = .done → t.result = some y →
    u.state ≠ .busy → cmdDir u.cmd = 1#1 → cmdMethod u.cmd = cmdMethod s.cmd → u.input = some y →
    decode u.cmd = .ok j → capacitiesSuffice u.params j y x = true →
    ∃ w, step { u with script := [.execute] } = .next w ∧ Finished w x)
end

