-- ==== Sys2Proof/Laws/Memory.lean ====
section
/-! SUPPORT. The laws of the buffers: read after write, the canonical form, and reading a stretch of bytes. -/

namespace Sys2Proof.Machine

@[simp] theorem Memory.read_nil (a : Nat) : Memory.read [] a = none := rfl

/-- A read of the byte just written gives it. -/
@[simp] theorem Memory.read_write_same (m : Memory) (a : Nat) (v : Byte) : (m.write a v).read a = some v := by
  induction m with
  | nil => simp [Memory.write, Memory.read]
  | cons c m ih =>
    obtain ⟨k, u⟩ := c
    simp only [Memory.write]
    split
    · simp [Memory.read]
    · split
      · simp [Memory.read]
      · have : k ≠ a := fun h => ‹¬a = k› h.symm
        simp [Memory.read, this, ih]

/-- A write leaves every other index as it was. -/
theorem Memory.read_write_other (m : Memory) {a b : Nat} (v : Byte) (h : b ≠ a) : (m.write a v).read b = m.read b := by
  induction m with
  | nil => simp [Memory.write, Memory.read, Ne.symm h]
  | cons c m ih =>
    obtain ⟨k, u⟩ := c
    simp only [Memory.write]
    split
    · simp [Memory.read, Ne.symm h]
    · split
      · subst a; simp [Memory.read, Ne.symm h]
      · simp [Memory.read, ih]

/-- The first index of a buffer after a write: the written one or the one that was first. -/
theorem Memory.write_head (m : Memory) (a : Nat) (v : Byte) :
    ∃ u m', m.write a v = (a, u) :: m' ∨ ∃ k w r, m = (k, w) :: r ∧ k < a ∧ m.write a v = (k, u) :: m' := by
  cases m with
  | nil => exact ⟨v, [], .inl rfl⟩
  | cons c r =>
    obtain ⟨k, w⟩ := c
    by_cases h1 : a < k
    · exact ⟨v, (k, w) :: r, .inl (by simp [Memory.write, h1])⟩
    · by_cases h2 : a = k
      · exact ⟨v, r, .inl (by simp [Memory.write, h2])⟩
      · exact ⟨w, Memory.write r a v, .inr ⟨k, w, r, rfl, by omega, by simp [Memory.write, h1, h2]⟩⟩

/-- A write keeps the canonical form. -/
theorem Memory.write_wf (m : Memory) (a : Nat) (v : Byte) (h : m.wf = true) : (m.write a v).wf = true := by
  induction m with
  | nil => rfl
  | cons c m ih =>
    obtain ⟨k, u⟩ := c
    have tail : Memory.wf m = true ∧ ∀ k' v' r, m = (k', v') :: r → k < k' := by
      cases m with
      | nil => exact ⟨rfl, nofun⟩
      | cons d r =>
        simp only [Memory.wf, Bool.and_eq_true, decide_eq_true_eq] at h
        refine ⟨h.2, ?_⟩
        rintro k' v' r' ⟨⟩
        exact h.1
    by_cases h1 : a < k
    · simp only [Memory.write, h1, if_true, Memory.wf, decide_true, Bool.true_and]
      exact h
    · by_cases h2 : a = k
      · subst h2
        simp only [Memory.write, Nat.lt_irrefl, if_false, if_true]
        cases m with
        | nil => rfl
        | cons d r =>
          obtain ⟨k', v'⟩ := d
          simp only [Memory.wf, Bool.and_eq_true, decide_eq_true_eq]
          exact ⟨tail.2 k' v' r rfl, tail.1⟩
      · have hw := ih tail.1
        simp only [Memory.write, h1, h2, if_false]
        obtain ⟨w, m', e | ⟨k', v', r, hm, _, e⟩⟩ := Memory.write_head m a v
        · rw [e] at hw ⊢
          simp only [Memory.wf, Bool.and_eq_true, decide_eq_true_eq]
          exact ⟨by omega, hw⟩
        · rw [e] at hw ⊢
          simp only [Memory.wf, Bool.and_eq_true, decide_eq_true_eq]
          exact ⟨tail.2 _ _ _ hm, hw⟩

/-- The indices of a buffer after a write: those before, and the one written. -/
theorem Memory.mem_write {m : Memory} {a : Nat} {v : Byte} {c : Host.Cell} (h : c ∈ m.write a v) :
    c = (a, v) ∨ c ∈ m := by
  induction m with
  | nil => simpa [Memory.write] using h
  | cons d m ih =>
    obtain ⟨k, u⟩ := d
    simp only [Memory.write] at h
    split at h
    · simpa using h
    · split at h
      · have := List.mem_cons.1 h
        exact this.imp_right (List.mem_cons_of_mem _)
      · rcases List.mem_cons.1 h with h | h
        · exact .inr (by simp [h])
        · exact (ih h).imp_right (List.mem_cons_of_mem _)

/-- What a stretch of `n` written bytes is: its length, and every byte by its index. -/
theorem Memory.readSeq_eq_some (m : Memory) (a n : Nat) (x : List Byte) :
    m.readSeq a n = some x ↔ x.length = n ∧ ∀ i, i < n → m.read (a + i) = x[i]? := by
  induction n generalizing a x with
  | zero => cases x <;> simp [Memory.readSeq]
  | succ n ih =>
    simp only [Memory.readSeq]
    constructor
    · intro h
      split at h
      · rename_i b y hb hy
        obtain rfl : b :: y = x := by simpa using h
        obtain ⟨hl, hr⟩ := (ih _ _).1 hy
        refine ⟨by simp [hl], fun i hi => ?_⟩
        cases i with
        | zero => simpa using hb
        | succ i =>
          have := hr i (by omega)
          simpa [Nat.add_assoc, Nat.add_comm 1 i] using this
      · cases h
    · rintro ⟨hl, hr⟩
      cases x with
      | nil => simp at hl
      | cons b y =>
        have hb : m.read a = some b := by simpa using hr 0 (by omega)
        have hy : m.readSeq (a + 1) n = some y := by
          refine (ih _ _).2 ⟨by simpa using hl, fun i hi => ?_⟩
          have := hr (i + 1) (by omega)
          simpa [Nat.add_assoc, Nat.add_comm 1 i] using this
        rw [hb, hy]

@[simp] theorem Memory.readSeq_zero (m : Memory) (a : Nat) : m.readSeq a 0 = some [] := rfl

/-- A byte of a stretch. -/
theorem Memory.read_of_readSeq {m : Memory} {n i : Nat} {x : List Byte} (h : m.readSeq 0 n = some x) (hi : i < n) :
    m.read i = x[i]? := by
  simpa using ((Memory.readSeq_eq_some m 0 n x).1 h).2 i hi

/-- The length of a stretch. -/
theorem Memory.length_of_readSeq {m : Memory} {a n : Nat} {x : List Byte} (h : m.readSeq a n = some x) : x.length = n :=
  ((Memory.readSeq_eq_some m a n x).1 h).1

/-- Writing the byte after a stretch makes it one longer. -/
theorem Memory.readSeq_write_next {m : Memory} {n : Nat} {x : List Byte} (v : Byte) (h : m.readSeq 0 n = some x) :
    (m.write n v).readSeq 0 (n + 1) = some (x ++ [v]) := by
  obtain ⟨hl, hr⟩ := (Memory.readSeq_eq_some m 0 n x).1 h
  refine (Memory.readSeq_eq_some _ _ _ _).2 ⟨by simp [hl], fun i hi => ?_⟩
  by_cases e : i = n
  · subst e; simp [hl]
  · have hin : i < n := by omega
    rw [Nat.zero_add, Memory.read_write_other _ _ e, List.getElem?_append_left (by omega)]
    simpa using hr i hin

/-- A shorter stretch is the first part of a longer one. -/
theorem Memory.readSeq_take {m : Memory} {n k : Nat} {x : List Byte} (h : m.readSeq 0 n = some x) (hk : k ≤ n) :
    m.readSeq 0 k = some (x.take k) := by
  obtain ⟨hl, hr⟩ := (Memory.readSeq_eq_some m 0 n x).1 h
  refine (Memory.readSeq_eq_some _ _ _ _).2 ⟨by simp [hl, hk], fun i hi => ?_⟩
  rw [List.getElem?_take_of_lt hi]
  exact hr i (by omega)

/-- The buffers are in canonical form right after reset. -/
theorem reset_buffers_wf :
    Memory.wf State.reset.ibuf = true ∧ Memory.wf State.reset.mbuf = true ∧ Memory.wf State.reset.obuf = true :=
  ⟨rfl, rfl, rfl⟩

/-- A write to one buffer keeps all three in canonical form. -/
theorem State.memWrite_buffers_wf (s : State) (sp : Space) (a : Nat) (v : Byte)
    (h : ∀ q, Memory.wf (s.buffer q) = true) (q : Space) : Memory.wf ((s.memWrite sp a v).buffer q) = true := by
  have hq := h q
  cases sp <;> cases q <;> first | exact hq | exact Memory.write_wf _ _ _ hq

end Sys2Proof.Machine
end

