-- ==== Sys2Proof/Laws/PerInstr.lean ====
section
/-! SUPPORT. The facts about each command as syntax, one lemma per command: it is well-formed (R83, R91), and the fields of
its word are its direction and its selector (R80, R81, R84). -/

namespace Sys2Proof.Laws.EncodingFields

/-- What holds of every command's word. -/
def Statement (i : Instr) : Prop :=
  i.wf = true ∧ cmdDir (encode i) = i.dir ∧ cmdMethod (encode i) = i.selector

theorem compressDeltaRle : Statement .compressDeltaRle := ⟨rfl, by decide, by decide⟩

theorem compressRleOnly : Statement .compressRleOnly := ⟨rfl, by decide, by decide⟩

theorem compressDeltaOnly : Statement .compressDeltaOnly := ⟨rfl, by decide, by decide⟩

theorem decompressDeltaRle : Statement .decompressDeltaRle := ⟨rfl, by decide, by decide⟩

theorem decompressRleOnly : Statement .decompressRleOnly := ⟨rfl, by decide, by decide⟩

theorem decompressDeltaOnly : Statement .decompressDeltaOnly := ⟨rfl, by decide, by decide⟩

end Sys2Proof.Laws.EncodingFields
end

