-- ==== Sys2Proof/Laws/State.lean ====
section
/-! SUPPORT. One lemma per field per named update of State, each true by unfolding the update. -/

namespace Sys2Proof.Machine

/-! `raise` (R205) writes STATE, ERR and OLEN. -/

@[simp] theorem raise_cmd (e : Err) (s : State) : (raise e s).cmd = s.cmd := rfl
@[simp] theorem raise_ilen (e : Err) (s : State) : (raise e s).ilen = s.ilen := rfl
@[simp] theorem raise_olen (e : Err) (s : State) : (raise e s).olen = 0 := rfl
@[simp] theorem raise_state (e : Err) (s : State) : (raise e s).state = .error := rfl
@[simp] theorem raise_err (e : Err) (s : State) : (raise e s).err = e := rfl
@[simp] theorem raise_stg (e : Err) (s : State) : (raise e s).stg = s.stg := rfl
@[simp] theorem raise_slen (e : Err) (s : State) : (raise e s).slen = s.slen := rfl
@[simp] theorem raise_mlen (e : Err) (s : State) : (raise e s).mlen = s.mlen := rfl
@[simp] theorem raise_rp (e : Err) (s : State) : (raise e s).rp = s.rp := rfl
@[simp] theorem raise_wp (e : Err) (s : State) : (raise e s).wp = s.wp := rfl
@[simp] theorem raise_prev (e : Err) (s : State) : (raise e s).prev = s.prev := rfl
@[simp] theorem raise_acc (e : Err) (s : State) : (raise e s).acc = s.acc := rfl
@[simp] theorem raise_cur (e : Err) (s : State) : (raise e s).cur = s.cur := rfl
@[simp] theorem raise_cnt (e : Err) (s : State) : (raise e s).cnt = s.cnt := rfl
@[simp] theorem raise_val (e : Err) (s : State) : (raise e s).val = s.val := rfl
@[simp] theorem raise_rem (e : Err) (s : State) : (raise e s).rem = s.rem := rfl
@[simp] theorem raise_ibuf (e : Err) (s : State) : (raise e s).ibuf = s.ibuf := rfl
@[simp] theorem raise_mbuf (e : Err) (s : State) : (raise e s).mbuf = s.mbuf := rfl
@[simp] theorem raise_obuf (e : Err) (s : State) : (raise e s).obuf = s.obuf := rfl
@[simp] theorem raise_params (e : Err) (s : State) : (raise e s).params = s.params := rfl
@[simp] theorem raise_script (e : Err) (s : State) : (raise e s).script = s.script := rfl
@[simp] theorem raise_replies (e : Err) (s : State) : (raise e s).replies = s.replies := rfl
@[simp] theorem raise_draws (e : Err) (s : State) : (raise e s).draws = s.draws := rfl

/-! `StageInit` (R182) clears six registers. -/

@[simp] theorem stageInit_cmd (s : State) : (stageInit s).cmd = s.cmd := rfl
@[simp] theorem stageInit_ilen (s : State) : (stageInit s).ilen = s.ilen := rfl
@[simp] theorem stageInit_olen (s : State) : (stageInit s).olen = s.olen := rfl
@[simp] theorem stageInit_state (s : State) : (stageInit s).state = s.state := rfl
@[simp] theorem stageInit_err (s : State) : (stageInit s).err = s.err := rfl
@[simp] theorem stageInit_stg (s : State) : (stageInit s).stg = s.stg := rfl
@[simp] theorem stageInit_slen (s : State) : (stageInit s).slen = s.slen := rfl
@[simp] theorem stageInit_mlen (s : State) : (stageInit s).mlen = s.mlen := rfl
@[simp] theorem stageInit_rp (s : State) : (stageInit s).rp = 0 := rfl
@[simp] theorem stageInit_wp (s : State) : (stageInit s).wp = 0 := rfl
@[simp] theorem stageInit_prev (s : State) : (stageInit s).prev = 0#8 := rfl
@[simp] theorem stageInit_acc (s : State) : (stageInit s).acc = 0#8 := rfl
@[simp] theorem stageInit_cur (s : State) : (stageInit s).cur = s.cur := rfl
@[simp] theorem stageInit_cnt (s : State) : (stageInit s).cnt = 0#8 := rfl
@[simp] theorem stageInit_val (s : State) : (stageInit s).val = s.val := rfl
@[simp] theorem stageInit_rem (s : State) : (stageInit s).rem = 0#8 := rfl
@[simp] theorem stageInit_ibuf (s : State) : (stageInit s).ibuf = s.ibuf := rfl
@[simp] theorem stageInit_mbuf (s : State) : (stageInit s).mbuf = s.mbuf := rfl
@[simp] theorem stageInit_obuf (s : State) : (stageInit s).obuf = s.obuf := rfl
@[simp] theorem stageInit_params (s : State) : (stageInit s).params = s.params := rfl
@[simp] theorem stageInit_script (s : State) : (stageInit s).script = s.script := rfl
@[simp] theorem stageInit_replies (s : State) : (stageInit s).replies = s.replies := rfl
@[simp] theorem stageInit_draws (s : State) : (stageInit s).draws = s.draws := rfl

/-! `StageDone` of the last stage (R183). -/

@[simp] theorem finishOperation_cmd (s : State) : (finishOperation s).cmd = s.cmd := rfl
@[simp] theorem finishOperation_ilen (s : State) : (finishOperation s).ilen = s.ilen := rfl
@[simp] theorem finishOperation_olen (s : State) : (finishOperation s).olen = s.wp := rfl
@[simp] theorem finishOperation_state (s : State) : (finishOperation s).state = .done := rfl
@[simp] theorem finishOperation_err (s : State) : (finishOperation s).err = s.err := rfl
@[simp] theorem finishOperation_stg (s : State) : (finishOperation s).stg = s.stg := rfl
@[simp] theorem finishOperation_slen (s : State) : (finishOperation s).slen = s.slen := rfl
@[simp] theorem finishOperation_mlen (s : State) : (finishOperation s).mlen = s.mlen := rfl
@[simp] theorem finishOperation_rp (s : State) : (finishOperation s).rp = s.rp := rfl
@[simp] theorem finishOperation_wp (s : State) : (finishOperation s).wp = s.wp := rfl
@[simp] theorem finishOperation_prev (s : State) : (finishOperation s).prev = s.prev := rfl
@[simp] theorem finishOperation_acc (s : State) : (finishOperation s).acc = s.acc := rfl
@[simp] theorem finishOperation_cur (s : State) : (finishOperation s).cur = s.cur := rfl
@[simp] theorem finishOperation_cnt (s : State) : (finishOperation s).cnt = s.cnt := rfl
@[simp] theorem finishOperation_val (s : State) : (finishOperation s).val = s.val := rfl
@[simp] theorem finishOperation_rem (s : State) : (finishOperation s).rem = s.rem := rfl
@[simp] theorem finishOperation_ibuf (s : State) : (finishOperation s).ibuf = s.ibuf := rfl
@[simp] theorem finishOperation_mbuf (s : State) : (finishOperation s).mbuf = s.mbuf := rfl
@[simp] theorem finishOperation_obuf (s : State) : (finishOperation s).obuf = s.obuf := rfl
@[simp] theorem finishOperation_params (s : State) : (finishOperation s).params = s.params := rfl
@[simp] theorem finishOperation_script (s : State) : (finishOperation s).script = s.script := rfl
@[simp] theorem finishOperation_replies (s : State) : (finishOperation s).replies = s.replies := rfl
@[simp] theorem finishOperation_draws (s : State) : (finishOperation s).draws = s.draws := rfl

/-! `StageDone` of stage 0 of two (R183). -/

@[simp] theorem enterStageOne_cmd (s : State) : (enterStageOne s).cmd = s.cmd := rfl
@[simp] theorem enterStageOne_ilen (s : State) : (enterStageOne s).ilen = s.ilen := rfl
@[simp] theorem enterStageOne_olen (s : State) : (enterStageOne s).olen = s.olen := rfl
@[simp] theorem enterStageOne_state (s : State) : (enterStageOne s).state = s.state := rfl
@[simp] theorem enterStageOne_err (s : State) : (enterStageOne s).err = s.err := rfl
@[simp] theorem enterStageOne_stg (s : State) : (enterStageOne s).stg = 1 := rfl
@[simp] theorem enterStageOne_slen (s : State) : (enterStageOne s).slen = s.wp := rfl
@[simp] theorem enterStageOne_mlen (s : State) : (enterStageOne s).mlen = s.wp := rfl
@[simp] theorem enterStageOne_rp (s : State) : (enterStageOne s).rp = 0 := rfl
@[simp] theorem enterStageOne_wp (s : State) : (enterStageOne s).wp = 0 := rfl
@[simp] theorem enterStageOne_prev (s : State) : (enterStageOne s).prev = 0#8 := rfl
@[simp] theorem enterStageOne_acc (s : State) : (enterStageOne s).acc = 0#8 := rfl
@[simp] theorem enterStageOne_cur (s : State) : (enterStageOne s).cur = s.cur := rfl
@[simp] theorem enterStageOne_cnt (s : State) : (enterStageOne s).cnt = 0#8 := rfl
@[simp] theorem enterStageOne_val (s : State) : (enterStageOne s).val = s.val := rfl
@[simp] theorem enterStageOne_rem (s : State) : (enterStageOne s).rem = 0#8 := rfl
@[simp] theorem enterStageOne_ibuf (s : State) : (enterStageOne s).ibuf = s.ibuf := rfl
@[simp] theorem enterStageOne_mbuf (s : State) : (enterStageOne s).mbuf = s.mbuf := rfl
@[simp] theorem enterStageOne_obuf (s : State) : (enterStageOne s).obuf = s.obuf := rfl
@[simp] theorem enterStageOne_params (s : State) : (enterStageOne s).params = s.params := rfl
@[simp] theorem enterStageOne_script (s : State) : (enterStageOne s).script = s.script := rfl
@[simp] theorem enterStageOne_replies (s : State) : (enterStageOne s).replies = s.replies := rfl
@[simp] theorem enterStageOne_draws (s : State) : (enterStageOne s).draws = s.draws := rfl

/-! The start of an admitted operation (R178). -/

@[simp] theorem beginOperation_cmd (s : State) : (beginOperation s).cmd = s.cmd := rfl
@[simp] theorem beginOperation_ilen (s : State) : (beginOperation s).ilen = s.ilen := rfl
@[simp] theorem beginOperation_olen (s : State) : (beginOperation s).olen = 0 := rfl
@[simp] theorem beginOperation_state (s : State) : (beginOperation s).state = .busy := rfl
@[simp] theorem beginOperation_err (s : State) : (beginOperation s).err = .none := rfl
@[simp] theorem beginOperation_stg (s : State) : (beginOperation s).stg = 0 := rfl
@[simp] theorem beginOperation_slen (s : State) : (beginOperation s).slen = s.ilen := rfl
@[simp] theorem beginOperation_mlen (s : State) : (beginOperation s).mlen = s.mlen := rfl
@[simp] theorem beginOperation_rp (s : State) : (beginOperation s).rp = 0 := rfl
@[simp] theorem beginOperation_wp (s : State) : (beginOperation s).wp = 0 := rfl
@[simp] theorem beginOperation_prev (s : State) : (beginOperation s).prev = 0#8 := rfl
@[simp] theorem beginOperation_acc (s : State) : (beginOperation s).acc = 0#8 := rfl
@[simp] theorem beginOperation_cur (s : State) : (beginOperation s).cur = s.cur := rfl
@[simp] theorem beginOperation_cnt (s : State) : (beginOperation s).cnt = 0#8 := rfl
@[simp] theorem beginOperation_val (s : State) : (beginOperation s).val = s.val := rfl
@[simp] theorem beginOperation_rem (s : State) : (beginOperation s).rem = 0#8 := rfl
@[simp] theorem beginOperation_ibuf (s : State) : (beginOperation s).ibuf = s.ibuf := rfl
@[simp] theorem beginOperation_mbuf (s : State) : (beginOperation s).mbuf = s.mbuf := rfl
@[simp] theorem beginOperation_obuf (s : State) : (beginOperation s).obuf = s.obuf := rfl
@[simp] theorem beginOperation_params (s : State) : (beginOperation s).params = s.params := rfl
@[simp] theorem beginOperation_script (s : State) : (beginOperation s).script = s.script := rfl
@[simp] theorem beginOperation_replies (s : State) : (beginOperation s).replies = s.replies := rfl
@[simp] theorem beginOperation_draws (s : State) : (beginOperation s).draws = s.draws := rfl

/-! Reset (R230). -/

@[simp] theorem resetEvent_cmd (s : State) : (resetEvent s).cmd = 0#17 := rfl
@[simp] theorem resetEvent_ilen (s : State) : (resetEvent s).ilen = 0 := rfl
@[simp] theorem resetEvent_olen (s : State) : (resetEvent s).olen = 0 := rfl
@[simp] theorem resetEvent_state (s : State) : (resetEvent s).state = .idle := rfl
@[simp] theorem resetEvent_err (s : State) : (resetEvent s).err = .none := rfl
@[simp] theorem resetEvent_stg (s : State) : (resetEvent s).stg = 0 := rfl
@[simp] theorem resetEvent_slen (s : State) : (resetEvent s).slen = 0 := rfl
@[simp] theorem resetEvent_mlen (s : State) : (resetEvent s).mlen = 0 := rfl
@[simp] theorem resetEvent_rp (s : State) : (resetEvent s).rp = 0 := rfl
@[simp] theorem resetEvent_wp (s : State) : (resetEvent s).wp = 0 := rfl
@[simp] theorem resetEvent_prev (s : State) : (resetEvent s).prev = 0#8 := rfl
@[simp] theorem resetEvent_acc (s : State) : (resetEvent s).acc = 0#8 := rfl
@[simp] theorem resetEvent_cur (s : State) : (resetEvent s).cur = 0#8 := rfl
@[simp] theorem resetEvent_cnt (s : State) : (resetEvent s).cnt = 0#8 := rfl
@[simp] theorem resetEvent_val (s : State) : (resetEvent s).val = 0#8 := rfl
@[simp] theorem resetEvent_rem (s : State) : (resetEvent s).rem = 0#8 := rfl
@[simp] theorem resetEvent_ibuf (s : State) : (resetEvent s).ibuf = [] := rfl
@[simp] theorem resetEvent_mbuf (s : State) : (resetEvent s).mbuf = [] := rfl
@[simp] theorem resetEvent_obuf (s : State) : (resetEvent s).obuf = [] := rfl
@[simp] theorem resetEvent_params (s : State) : (resetEvent s).params = s.params := rfl
@[simp] theorem resetEvent_script (s : State) : (resetEvent s).script = s.script := rfl
@[simp] theorem resetEvent_replies (s : State) : (resetEvent s).replies = s.replies := rfl
@[simp] theorem resetEvent_draws (s : State) : (resetEvent s).draws = s.draws := rfl

/-! A host read notes what it returned. -/

@[simp] theorem State.answer_cmd (s : State) (r : Reply) : (s.answer r).cmd = s.cmd := rfl
@[simp] theorem State.answer_ilen (s : State) (r : Reply) : (s.answer r).ilen = s.ilen := rfl
@[simp] theorem State.answer_olen (s : State) (r : Reply) : (s.answer r).olen = s.olen := rfl
@[simp] theorem State.answer_state (s : State) (r : Reply) : (s.answer r).state = s.state := rfl
@[simp] theorem State.answer_err (s : State) (r : Reply) : (s.answer r).err = s.err := rfl
@[simp] theorem State.answer_stg (s : State) (r : Reply) : (s.answer r).stg = s.stg := rfl
@[simp] theorem State.answer_slen (s : State) (r : Reply) : (s.answer r).slen = s.slen := rfl
@[simp] theorem State.answer_mlen (s : State) (r : Reply) : (s.answer r).mlen = s.mlen := rfl
@[simp] theorem State.answer_rp (s : State) (r : Reply) : (s.answer r).rp = s.rp := rfl
@[simp] theorem State.answer_wp (s : State) (r : Reply) : (s.answer r).wp = s.wp := rfl
@[simp] theorem State.answer_prev (s : State) (r : Reply) : (s.answer r).prev = s.prev := rfl
@[simp] theorem State.answer_acc (s : State) (r : Reply) : (s.answer r).acc = s.acc := rfl
@[simp] theorem State.answer_cur (s : State) (r : Reply) : (s.answer r).cur = s.cur := rfl
@[simp] theorem State.answer_cnt (s : State) (r : Reply) : (s.answer r).cnt = s.cnt := rfl
@[simp] theorem State.answer_val (s : State) (r : Reply) : (s.answer r).val = s.val := rfl
@[simp] theorem State.answer_rem (s : State) (r : Reply) : (s.answer r).rem = s.rem := rfl
@[simp] theorem State.answer_ibuf (s : State) (r : Reply) : (s.answer r).ibuf = s.ibuf := rfl
@[simp] theorem State.answer_mbuf (s : State) (r : Reply) : (s.answer r).mbuf = s.mbuf := rfl
@[simp] theorem State.answer_obuf (s : State) (r : Reply) : (s.answer r).obuf = s.obuf := rfl
@[simp] theorem State.answer_params (s : State) (r : Reply) : (s.answer r).params = s.params := rfl
@[simp] theorem State.answer_script (s : State) (r : Reply) : (s.answer r).script = s.script := rfl
@[simp] theorem State.answer_replies (s : State) (r : Reply) : (s.answer r).replies = r :: s.replies := rfl
@[simp] theorem State.answer_draws (s : State) (r : Reply) : (s.answer r).draws = s.draws := rfl

/-! A free value has been drawn. -/

@[simp] theorem State.drawn_cmd (s : State) : s.drawn.cmd = s.cmd := rfl
@[simp] theorem State.drawn_ilen (s : State) : s.drawn.ilen = s.ilen := rfl
@[simp] theorem State.drawn_olen (s : State) : s.drawn.olen = s.olen := rfl
@[simp] theorem State.drawn_state (s : State) : s.drawn.state = s.state := rfl
@[simp] theorem State.drawn_err (s : State) : s.drawn.err = s.err := rfl
@[simp] theorem State.drawn_stg (s : State) : s.drawn.stg = s.stg := rfl
@[simp] theorem State.drawn_slen (s : State) : s.drawn.slen = s.slen := rfl
@[simp] theorem State.drawn_mlen (s : State) : s.drawn.mlen = s.mlen := rfl
@[simp] theorem State.drawn_rp (s : State) : s.drawn.rp = s.rp := rfl
@[simp] theorem State.drawn_wp (s : State) : s.drawn.wp = s.wp := rfl
@[simp] theorem State.drawn_prev (s : State) : s.drawn.prev = s.prev := rfl
@[simp] theorem State.drawn_acc (s : State) : s.drawn.acc = s.acc := rfl
@[simp] theorem State.drawn_cur (s : State) : s.drawn.cur = s.cur := rfl
@[simp] theorem State.drawn_cnt (s : State) : s.drawn.cnt = s.cnt := rfl
@[simp] theorem State.drawn_val (s : State) : s.drawn.val = s.val := rfl
@[simp] theorem State.drawn_rem (s : State) : s.drawn.rem = s.rem := rfl
@[simp] theorem State.drawn_ibuf (s : State) : s.drawn.ibuf = s.ibuf := rfl
@[simp] theorem State.drawn_mbuf (s : State) : s.drawn.mbuf = s.mbuf := rfl
@[simp] theorem State.drawn_obuf (s : State) : s.drawn.obuf = s.obuf := rfl
@[simp] theorem State.drawn_params (s : State) : s.drawn.params = s.params := rfl
@[simp] theorem State.drawn_script (s : State) : s.drawn.script = s.script := rfl
@[simp] theorem State.drawn_replies (s : State) : s.drawn.replies = s.replies := rfl
@[simp] theorem State.drawn_draws (s : State) : s.drawn.draws = s.draws + 1 := rfl

/-! PREV is set (R104). -/

@[simp] theorem State.withPrev_cmd (b : Byte) (s : State) : (s.withPrev b).cmd = s.cmd := rfl
@[simp] theorem State.withPrev_ilen (b : Byte) (s : State) : (s.withPrev b).ilen = s.ilen := rfl
@[simp] theorem State.withPrev_olen (b : Byte) (s : State) : (s.withPrev b).olen = s.olen := rfl
@[simp] theorem State.withPrev_state (b : Byte) (s : State) : (s.withPrev b).state = s.state := rfl
@[simp] theorem State.withPrev_err (b : Byte) (s : State) : (s.withPrev b).err = s.err := rfl
@[simp] theorem State.withPrev_stg (b : Byte) (s : State) : (s.withPrev b).stg = s.stg := rfl
@[simp] theorem State.withPrev_slen (b : Byte) (s : State) : (s.withPrev b).slen = s.slen := rfl
@[simp] theorem State.withPrev_mlen (b : Byte) (s : State) : (s.withPrev b).mlen = s.mlen := rfl
@[simp] theorem State.withPrev_rp (b : Byte) (s : State) : (s.withPrev b).rp = s.rp := rfl
@[simp] theorem State.withPrev_wp (b : Byte) (s : State) : (s.withPrev b).wp = s.wp := rfl
@[simp] theorem State.withPrev_prev (b : Byte) (s : State) : (s.withPrev b).prev = b := rfl
@[simp] theorem State.withPrev_acc (b : Byte) (s : State) : (s.withPrev b).acc = s.acc := rfl
@[simp] theorem State.withPrev_cur (b : Byte) (s : State) : (s.withPrev b).cur = s.cur := rfl
@[simp] theorem State.withPrev_cnt (b : Byte) (s : State) : (s.withPrev b).cnt = s.cnt := rfl
@[simp] theorem State.withPrev_val (b : Byte) (s : State) : (s.withPrev b).val = s.val := rfl
@[simp] theorem State.withPrev_rem (b : Byte) (s : State) : (s.withPrev b).rem = s.rem := rfl
@[simp] theorem State.withPrev_ibuf (b : Byte) (s : State) : (s.withPrev b).ibuf = s.ibuf := rfl
@[simp] theorem State.withPrev_mbuf (b : Byte) (s : State) : (s.withPrev b).mbuf = s.mbuf := rfl
@[simp] theorem State.withPrev_obuf (b : Byte) (s : State) : (s.withPrev b).obuf = s.obuf := rfl
@[simp] theorem State.withPrev_params (b : Byte) (s : State) : (s.withPrev b).params = s.params := rfl
@[simp] theorem State.withPrev_script (b : Byte) (s : State) : (s.withPrev b).script = s.script := rfl
@[simp] theorem State.withPrev_replies (b : Byte) (s : State) : (s.withPrev b).replies = s.replies := rfl
@[simp] theorem State.withPrev_draws (b : Byte) (s : State) : (s.withPrev b).draws = s.draws := rfl

/-! ACC is set (R119). -/

@[simp] theorem State.withAcc_cmd (o : Byte) (s : State) : (s.withAcc o).cmd = s.cmd := rfl
@[simp] theorem State.withAcc_ilen (o : Byte) (s : State) : (s.withAcc o).ilen = s.ilen := rfl
@[simp] theorem State.withAcc_olen (o : Byte) (s : State) : (s.withAcc o).olen = s.olen := rfl
@[simp] theorem State.withAcc_state (o : Byte) (s : State) : (s.withAcc o).state = s.state := rfl
@[simp] theorem State.withAcc_err (o : Byte) (s : State) : (s.withAcc o).err = s.err := rfl
@[simp] theorem State.withAcc_stg (o : Byte) (s : State) : (s.withAcc o).stg = s.stg := rfl
@[simp] theorem State.withAcc_slen (o : Byte) (s : State) : (s.withAcc o).slen = s.slen := rfl
@[simp] theorem State.withAcc_mlen (o : Byte) (s : State) : (s.withAcc o).mlen = s.mlen := rfl
@[simp] theorem State.withAcc_rp (o : Byte) (s : State) : (s.withAcc o).rp = s.rp := rfl
@[simp] theorem State.withAcc_wp (o : Byte) (s : State) : (s.withAcc o).wp = s.wp := rfl
@[simp] theorem State.withAcc_prev (o : Byte) (s : State) : (s.withAcc o).prev = s.prev := rfl
@[simp] theorem State.withAcc_acc (o : Byte) (s : State) : (s.withAcc o).acc = o := rfl
@[simp] theorem State.withAcc_cur (o : Byte) (s : State) : (s.withAcc o).cur = s.cur := rfl
@[simp] theorem State.withAcc_cnt (o : Byte) (s : State) : (s.withAcc o).cnt = s.cnt := rfl
@[simp] theorem State.withAcc_val (o : Byte) (s : State) : (s.withAcc o).val = s.val := rfl
@[simp] theorem State.withAcc_rem (o : Byte) (s : State) : (s.withAcc o).rem = s.rem := rfl
@[simp] theorem State.withAcc_ibuf (o : Byte) (s : State) : (s.withAcc o).ibuf = s.ibuf := rfl
@[simp] theorem State.withAcc_mbuf (o : Byte) (s : State) : (s.withAcc o).mbuf = s.mbuf := rfl
@[simp] theorem State.withAcc_obuf (o : Byte) (s : State) : (s.withAcc o).obuf = s.obuf := rfl
@[simp] theorem State.withAcc_params (o : Byte) (s : State) : (s.withAcc o).params = s.params := rfl
@[simp] theorem State.withAcc_script (o : Byte) (s : State) : (s.withAcc o).script = s.script := rfl
@[simp] theorem State.withAcc_replies (o : Byte) (s : State) : (s.withAcc o).replies = s.replies := rfl
@[simp] theorem State.withAcc_draws (o : Byte) (s : State) : (s.withAcc o).draws = s.draws := rfl

/-! A run is opened (R135). -/

@[simp] theorem State.openRun_cmd (b : Byte) (s : State) : (s.openRun b).cmd = s.cmd := rfl
@[simp] theorem State.openRun_ilen (b : Byte) (s : State) : (s.openRun b).ilen = s.ilen := rfl
@[simp] theorem State.openRun_olen (b : Byte) (s : State) : (s.openRun b).olen = s.olen := rfl
@[simp] theorem State.openRun_state (b : Byte) (s : State) : (s.openRun b).state = s.state := rfl
@[simp] theorem State.openRun_err (b : Byte) (s : State) : (s.openRun b).err = s.err := rfl
@[simp] theorem State.openRun_stg (b : Byte) (s : State) : (s.openRun b).stg = s.stg := rfl
@[simp] theorem State.openRun_slen (b : Byte) (s : State) : (s.openRun b).slen = s.slen := rfl
@[simp] theorem State.openRun_mlen (b : Byte) (s : State) : (s.openRun b).mlen = s.mlen := rfl
@[simp] theorem State.openRun_rp (b : Byte) (s : State) : (s.openRun b).rp = s.rp + 1 := rfl
@[simp] theorem State.openRun_wp (b : Byte) (s : State) : (s.openRun b).wp = s.wp := rfl
@[simp] theorem State.openRun_prev (b : Byte) (s : State) : (s.openRun b).prev = s.prev := rfl
@[simp] theorem State.openRun_acc (b : Byte) (s : State) : (s.openRun b).acc = s.acc := rfl
@[simp] theorem State.openRun_cur (b : Byte) (s : State) : (s.openRun b).cur = b := rfl
@[simp] theorem State.openRun_cnt (b : Byte) (s : State) : (s.openRun b).cnt = 1#8 := rfl
@[simp] theorem State.openRun_val (b : Byte) (s : State) : (s.openRun b).val = s.val := rfl
@[simp] theorem State.openRun_rem (b : Byte) (s : State) : (s.openRun b).rem = s.rem := rfl
@[simp] theorem State.openRun_ibuf (b : Byte) (s : State) : (s.openRun b).ibuf = s.ibuf := rfl
@[simp] theorem State.openRun_mbuf (b : Byte) (s : State) : (s.openRun b).mbuf = s.mbuf := rfl
@[simp] theorem State.openRun_obuf (b : Byte) (s : State) : (s.openRun b).obuf = s.obuf := rfl
@[simp] theorem State.openRun_params (b : Byte) (s : State) : (s.openRun b).params = s.params := rfl
@[simp] theorem State.openRun_script (b : Byte) (s : State) : (s.openRun b).script = s.script := rfl
@[simp] theorem State.openRun_replies (b : Byte) (s : State) : (s.openRun b).replies = s.replies := rfl
@[simp] theorem State.openRun_draws (b : Byte) (s : State) : (s.openRun b).draws = s.draws := rfl

/-! A run grows (R135). -/

@[simp] theorem State.growRun_cmd (s : State) : s.growRun.cmd = s.cmd := rfl
@[simp] theorem State.growRun_ilen (s : State) : s.growRun.ilen = s.ilen := rfl
@[simp] theorem State.growRun_olen (s : State) : s.growRun.olen = s.olen := rfl
@[simp] theorem State.growRun_state (s : State) : s.growRun.state = s.state := rfl
@[simp] theorem State.growRun_err (s : State) : s.growRun.err = s.err := rfl
@[simp] theorem State.growRun_stg (s : State) : s.growRun.stg = s.stg := rfl
@[simp] theorem State.growRun_slen (s : State) : s.growRun.slen = s.slen := rfl
@[simp] theorem State.growRun_mlen (s : State) : s.growRun.mlen = s.mlen := rfl
@[simp] theorem State.growRun_rp (s : State) : s.growRun.rp = s.rp + 1 := rfl
@[simp] theorem State.growRun_wp (s : State) : s.growRun.wp = s.wp := rfl
@[simp] theorem State.growRun_prev (s : State) : s.growRun.prev = s.prev := rfl
@[simp] theorem State.growRun_acc (s : State) : s.growRun.acc = s.acc := rfl
@[simp] theorem State.growRun_cur (s : State) : s.growRun.cur = s.cur := rfl
@[simp] theorem State.growRun_cnt (s : State) : s.growRun.cnt = s.cnt + 1#8 := rfl
@[simp] theorem State.growRun_val (s : State) : s.growRun.val = s.val := rfl
@[simp] theorem State.growRun_rem (s : State) : s.growRun.rem = s.rem := rfl
@[simp] theorem State.growRun_ibuf (s : State) : s.growRun.ibuf = s.ibuf := rfl
@[simp] theorem State.growRun_mbuf (s : State) : s.growRun.mbuf = s.mbuf := rfl
@[simp] theorem State.growRun_obuf (s : State) : s.growRun.obuf = s.obuf := rfl
@[simp] theorem State.growRun_params (s : State) : s.growRun.params = s.params := rfl
@[simp] theorem State.growRun_script (s : State) : s.growRun.script = s.script := rfl
@[simp] theorem State.growRun_replies (s : State) : s.growRun.replies = s.replies := rfl
@[simp] theorem State.growRun_draws (s : State) : s.growRun.draws = s.draws := rfl

/-! No run is open any more (R135). -/

@[simp] theorem State.closeRun_cmd (s : State) : s.closeRun.cmd = s.cmd := rfl
@[simp] theorem State.closeRun_ilen (s : State) : s.closeRun.ilen = s.ilen := rfl
@[simp] theorem State.closeRun_olen (s : State) : s.closeRun.olen = s.olen := rfl
@[simp] theorem State.closeRun_state (s : State) : s.closeRun.state = s.state := rfl
@[simp] theorem State.closeRun_err (s : State) : s.closeRun.err = s.err := rfl
@[simp] theorem State.closeRun_stg (s : State) : s.closeRun.stg = s.stg := rfl
@[simp] theorem State.closeRun_slen (s : State) : s.closeRun.slen = s.slen := rfl
@[simp] theorem State.closeRun_mlen (s : State) : s.closeRun.mlen = s.mlen := rfl
@[simp] theorem State.closeRun_rp (s : State) : s.closeRun.rp = s.rp := rfl
@[simp] theorem State.closeRun_wp (s : State) : s.closeRun.wp = s.wp := rfl
@[simp] theorem State.closeRun_prev (s : State) : s.closeRun.prev = s.prev := rfl
@[simp] theorem State.closeRun_acc (s : State) : s.closeRun.acc = s.acc := rfl
@[simp] theorem State.closeRun_cur (s : State) : s.closeRun.cur = s.cur := rfl
@[simp] theorem State.closeRun_cnt (s : State) : s.closeRun.cnt = 0#8 := rfl
@[simp] theorem State.closeRun_val (s : State) : s.closeRun.val = s.val := rfl
@[simp] theorem State.closeRun_rem (s : State) : s.closeRun.rem = s.rem := rfl
@[simp] theorem State.closeRun_ibuf (s : State) : s.closeRun.ibuf = s.ibuf := rfl
@[simp] theorem State.closeRun_mbuf (s : State) : s.closeRun.mbuf = s.mbuf := rfl
@[simp] theorem State.closeRun_obuf (s : State) : s.closeRun.obuf = s.obuf := rfl
@[simp] theorem State.closeRun_params (s : State) : s.closeRun.params = s.params := rfl
@[simp] theorem State.closeRun_script (s : State) : s.closeRun.script = s.script := rfl
@[simp] theorem State.closeRun_replies (s : State) : s.closeRun.replies = s.replies := rfl
@[simp] theorem State.closeRun_draws (s : State) : s.closeRun.draws = s.draws := rfl

/-! A record is taken (R157). -/

@[simp] theorem State.takeRecord_cmd (v n : Byte) (s : State) : (s.takeRecord v n).cmd = s.cmd := rfl
@[simp] theorem State.takeRecord_ilen (v n : Byte) (s : State) : (s.takeRecord v n).ilen = s.ilen := rfl
@[simp] theorem State.takeRecord_olen (v n : Byte) (s : State) : (s.takeRecord v n).olen = s.olen := rfl
@[simp] theorem State.takeRecord_state (v n : Byte) (s : State) : (s.takeRecord v n).state = s.state := rfl
@[simp] theorem State.takeRecord_err (v n : Byte) (s : State) : (s.takeRecord v n).err = s.err := rfl
@[simp] theorem State.takeRecord_stg (v n : Byte) (s : State) : (s.takeRecord v n).stg = s.stg := rfl
@[simp] theorem State.takeRecord_slen (v n : Byte) (s : State) : (s.takeRecord v n).slen = s.slen := rfl
@[simp] theorem State.takeRecord_mlen (v n : Byte) (s : State) : (s.takeRecord v n).mlen = s.mlen := rfl
@[simp] theorem State.takeRecord_rp (v n : Byte) (s : State) : (s.takeRecord v n).rp = s.rp + 2 := rfl
@[simp] theorem State.takeRecord_wp (v n : Byte) (s : State) : (s.takeRecord v n).wp = s.wp := rfl
@[simp] theorem State.takeRecord_prev (v n : Byte) (s : State) : (s.takeRecord v n).prev = s.prev := rfl
@[simp] theorem State.takeRecord_acc (v n : Byte) (s : State) : (s.takeRecord v n).acc = s.acc := rfl
@[simp] theorem State.takeRecord_cur (v n : Byte) (s : State) : (s.takeRecord v n).cur = s.cur := rfl
@[simp] theorem State.takeRecord_cnt (v n : Byte) (s : State) : (s.takeRecord v n).cnt = s.cnt := rfl
@[simp] theorem State.takeRecord_val (v n : Byte) (s : State) : (s.takeRecord v n).val = v := rfl
@[simp] theorem State.takeRecord_rem (v n : Byte) (s : State) : (s.takeRecord v n).rem = n := rfl
@[simp] theorem State.takeRecord_ibuf (v n : Byte) (s : State) : (s.takeRecord v n).ibuf = s.ibuf := rfl
@[simp] theorem State.takeRecord_mbuf (v n : Byte) (s : State) : (s.takeRecord v n).mbuf = s.mbuf := rfl
@[simp] theorem State.takeRecord_obuf (v n : Byte) (s : State) : (s.takeRecord v n).obuf = s.obuf := rfl
@[simp] theorem State.takeRecord_params (v n : Byte) (s : State) : (s.takeRecord v n).params = s.params := rfl
@[simp] theorem State.takeRecord_script (v n : Byte) (s : State) : (s.takeRecord v n).script = s.script := rfl
@[simp] theorem State.takeRecord_replies (v n : Byte) (s : State) : (s.takeRecord v n).replies = s.replies := rfl
@[simp] theorem State.takeRecord_draws (v n : Byte) (s : State) : (s.takeRecord v n).draws = s.draws := rfl

/-! `MemWrite` (R12, R58) writes one buffer and no register. -/

@[simp] theorem State.memWrite_cmd (s : State) (sp : Space) (a : Nat) (v : Byte) : (s.memWrite sp a v).cmd = s.cmd := by
  cases sp <;> rfl
@[simp] theorem State.memWrite_ilen (s : State) (sp : Space) (a : Nat) (v : Byte) : (s.memWrite sp a v).ilen = s.ilen := by
  cases sp <;> rfl
@[simp] theorem State.memWrite_olen (s : State) (sp : Space) (a : Nat) (v : Byte) : (s.memWrite sp a v).olen = s.olen := by
  cases sp <;> rfl
@[simp] theorem State.memWrite_state (s : State) (sp : Space) (a : Nat) (v : Byte) : (s.memWrite sp a v).state = s.state := by
  cases sp <;> rfl
@[simp] theorem State.memWrite_err (s : State) (sp : Space) (a : Nat) (v : Byte) : (s.memWrite sp a v).err = s.err := by
  cases sp <;> rfl
@[simp] theorem State.memWrite_stg (s : State) (sp : Space) (a : Nat) (v : Byte) : (s.memWrite sp a v).stg = s.stg := by
  cases sp <;> rfl
@[simp] theorem State.memWrite_slen (s : State) (sp : Space) (a : Nat) (v : Byte) : (s.memWrite sp a v).slen = s.slen := by
  cases sp <;> rfl
@[simp] theorem State.memWrite_mlen (s : State) (sp : Space) (a : Nat) (v : Byte) : (s.memWrite sp a v).mlen = s.mlen := by
  cases sp <;> rfl
@[simp] theorem State.memWrite_rp (s : State) (sp : Space) (a : Nat) (v : Byte) : (s.memWrite sp a v).rp = s.rp := by
  cases sp <;> rfl
@[simp] theorem State.memWrite_wp (s : State) (sp : Space) (a : Nat) (v : Byte) : (s.memWrite sp a v).wp = s.wp := by
  cases sp <;> rfl
@[simp] theorem State.memWrite_prev (s : State) (sp : Space) (a : Nat) (v : Byte) : (s.memWrite sp a v).prev = s.prev := by
  cases sp <;> rfl
@[simp] theorem State.memWrite_acc (s : State) (sp : Space) (a : Nat) (v : Byte) : (s.memWrite sp a v).acc = s.acc := by
  cases sp <;> rfl
@[simp] theorem State.memWrite_cur (s : State) (sp : Space) (a : Nat) (v : Byte) : (s.memWrite sp a v).cur = s.cur := by
  cases sp <;> rfl
@[simp] theorem State.memWrite_cnt (s : State) (sp : Space) (a : Nat) (v : Byte) : (s.memWrite sp a v).cnt = s.cnt := by
  cases sp <;> rfl
@[simp] theorem State.memWrite_val (s : State) (sp : Space) (a : Nat) (v : Byte) : (s.memWrite sp a v).val = s.val := by
  cases sp <;> rfl
@[simp] theorem State.memWrite_rem (s : State) (sp : Space) (a : Nat) (v : Byte) : (s.memWrite sp a v).rem = s.rem := by
  cases sp <;> rfl
@[simp] theorem State.memWrite_params (s : State) (sp : Space) (a : Nat) (v : Byte) : (s.memWrite sp a v).params = s.params := by
  cases sp <;> rfl
@[simp] theorem State.memWrite_script (s : State) (sp : Space) (a : Nat) (v : Byte) : (s.memWrite sp a v).script = s.script := by
  cases sp <;> rfl
@[simp] theorem State.memWrite_replies (s : State) (sp : Space) (a : Nat) (v : Byte) : (s.memWrite sp a v).replies = s.replies := by
  cases sp <;> rfl
@[simp] theorem State.memWrite_draws (s : State) (sp : Space) (a : Nat) (v : Byte) : (s.memWrite sp a v).draws = s.draws := by
  cases sp <;> rfl
@[simp] theorem State.memWrite_ibuf_ibuf (s : State) (a : Nat) (v : Byte) : (s.memWrite .ibuf a v).ibuf = s.ibuf.write a v := rfl
@[simp] theorem State.memWrite_ibuf_mbuf (s : State) (a : Nat) (v : Byte) : (s.memWrite .ibuf a v).mbuf = s.mbuf := rfl
@[simp] theorem State.memWrite_ibuf_obuf (s : State) (a : Nat) (v : Byte) : (s.memWrite .ibuf a v).obuf = s.obuf := rfl
@[simp] theorem State.memWrite_mbuf_ibuf (s : State) (a : Nat) (v : Byte) : (s.memWrite .mbuf a v).ibuf = s.ibuf := rfl
@[simp] theorem State.memWrite_mbuf_mbuf (s : State) (a : Nat) (v : Byte) : (s.memWrite .mbuf a v).mbuf = s.mbuf.write a v := rfl
@[simp] theorem State.memWrite_mbuf_obuf (s : State) (a : Nat) (v : Byte) : (s.memWrite .mbuf a v).obuf = s.obuf := rfl
@[simp] theorem State.memWrite_obuf_ibuf (s : State) (a : Nat) (v : Byte) : (s.memWrite .obuf a v).ibuf = s.ibuf := rfl
@[simp] theorem State.memWrite_obuf_mbuf (s : State) (a : Nat) (v : Byte) : (s.memWrite .obuf a v).mbuf = s.mbuf := rfl
@[simp] theorem State.memWrite_obuf_obuf (s : State) (a : Nat) (v : Byte) : (s.memWrite .obuf a v).obuf = s.obuf.write a v := rfl

/-- The buffer written has the byte, the other two are as before (R53). -/
theorem State.buffer_memWrite (s : State) (sp sp' : Space) (a : Nat) (v : Byte) :
    (s.memWrite sp a v).buffer sp' = if sp' = sp then (s.buffer sp).write a v else s.buffer sp' := by
  cases sp <;> cases sp' <;> rfl

end Sys2Proof.Machine
end

