-- ==== Sys2Proof/Laws/Steps.lean ====
section
/-! SUPPORT. What each shared operation over the state can do, said once: the schedule, the writes of a stage, one core step,
and runs of core steps. -/

namespace Sys2Proof.Machine

/-! The schedule (R180). -/

/-- A stage of a schedule never writes IBUF and never reads what it writes (R53, R180). -/
theorem activeStage_spaces {i : Instr} {s : State} {st : Stage} (h : activeStage i s = some st) :
    st.dst ≠ .ibuf ∧ st.src ≠ st.dst ∧ st.src ≠ .obuf := by
  have hm : st ∈ sched i := List.mem_of_getElem? h
  cases i <;> simp only [sched, List.mem_cons, List.not_mem_nil, or_false] at hm <;>
    first
    | (subst hm; decide)
    | (rcases hm with rfl | rfl <;> decide)

/-- The active stage depends on STG alone. -/
theorem activeStage_congr {i : Instr} {s t : State} (h : t.stg = s.stg) : activeStage i t = activeStage i s := by
  simp [activeStage, h]

/-! The writes of a stage. -/

theorem State.memRead_memWrite_same (s : State) (sp : Space) (a : Nat) (v : Byte) :
    (s.memWrite sp a v).memRead sp a = some v := by
  simp [State.memRead, State.buffer_memWrite]

theorem State.memRead_memWrite_other (s : State) {sp sp' : Space} {a a' : Nat} (v : Byte)
    (h : ¬(sp' = sp ∧ a' = a)) : (s.memWrite sp a v).memRead sp' a' = s.memRead sp' a' := by
  simp only [State.memRead, State.buffer_memWrite]
  split
  · subst sp'
    exact Memory.read_write_other _ _ fun e => h ⟨rfl, e⟩
  · rfl

/-- `produce` writes one byte and moves both pointers, or raises (R58, R104, R119). -/
theorem produce_cases (st : Stage) (o : Byte) (keep : State → State) (s : State) :
    (s.hasRoom st.dst s.wp = true ∧
      produce st o keep s = keep { s.memWrite st.dst s.wp o with rp := s.rp + 1, wp := s.wp + 1 }) ∨
    (s.hasRoom st.dst s.wp = false ∧ produce st o keep s = raise .capacityExceeded s) := by
  by_cases h : s.hasRoom st.dst s.wp = true
  · exact .inl ⟨h, by rw [produce, if_pos h]⟩
  · exact .inr ⟨by simpa using h, by rw [produce, if_neg h]⟩

/-- `emitThen` writes one record and goes on, or raises (R58, R136). -/
theorem emitThen_cases (st : Stage) (andThen : State → State) (s : State) :
    (s.hasRoom st.dst (s.wp + 1) = true ∧
      emitThen st andThen s =
        andThen { (s.memWrite st.dst s.wp s.cur).memWrite st.dst (s.wp + 1) s.cnt with wp := s.wp + 2 }) ∨
    (s.hasRoom st.dst (s.wp + 1) = false ∧ emitThen st andThen s = raise .capacityExceeded s) := by
  by_cases h : s.hasRoom st.dst (s.wp + 1) = true
  · exact .inl ⟨h, by simp [emitThen, emit, h]⟩
  · exact .inr ⟨by simpa using h, by simp [emitThen, emit, h]⟩

/-- `expand` writes one copy and counts it off, or raises (R58, R157). -/
theorem expand_cases (st : Stage) (s : State) :
    (s.hasRoom st.dst s.wp = true ∧
      expand st s = { s.memWrite st.dst s.wp s.val with wp := s.wp + 1, rem := s.rem - 1#8 }) ∨
    (s.hasRoom st.dst s.wp = false ∧ expand st s = raise .capacityExceeded s) := by
  by_cases h : s.hasRoom st.dst s.wp = true
  · exact .inl ⟨h, by rw [expand, if_pos h]⟩
  · exact .inr ⟨by simpa using h, by rw [expand, if_neg h]⟩

/-! One core step. -/

/-- The next state of a step of a stage, by the case of the stage rule it took (R104, R119, R135, R157). -/
inductive StageStepTo (i : Instr) (st : Stage) (s : State) : State → Prop where
  | denc (b : Byte) (hk : st.kind = .denc) (hl : s.rp < s.slen) (hb : s.memRead st.src s.rp = some b)
      (hr : s.hasRoom st.dst s.wp = true) :
      StageStepTo i st s
        ({ s.memWrite st.dst s.wp (subMod b s.prev) with rp := s.rp + 1, wp := s.wp + 1 }.withPrev b)
  | ddec (b : Byte) (hk : st.kind = .ddec) (hl : s.rp < s.slen) (hb : s.memRead st.src s.rp = some b)
      (hr : s.hasRoom st.dst s.wp = true) :
      StageStepTo i st s
        ({ s.memWrite st.dst s.wp (addMod b s.acc) with rp := s.rp + 1, wp := s.wp + 1 }.withAcc (addMod b s.acc))
  | opened (b : Byte) (hk : st.kind = .renc) (hl : s.rp < s.slen) (hb : s.memRead st.src s.rp = some b)
      (hc : s.cnt = 0#8) : StageStepTo i st s (s.openRun b)
  | grown (hk : st.kind = .renc) (hl : s.rp < s.slen) (hb : s.memRead st.src s.rp = some s.cur)
      (hc : s.cnt ≠ 0#8) (hm : s.cnt.toNat < Config.runMax) : StageStepTo i st s s.growRun
  | turned (b : Byte) (hk : st.kind = .renc) (hl : s.rp < s.slen) (hb : s.memRead st.src s.rp = some b)
      (hc : s.cnt ≠ 0#8) (hm : ¬(b = s.cur ∧ s.cnt.toNat < Config.runMax)) (hr : s.hasRoom st.dst (s.wp + 1) = true) :
      StageStepTo i st s
        ({ (s.memWrite st.dst s.wp s.cur).memWrite st.dst (s.wp + 1) s.cnt with wp := s.wp + 2 }.openRun b)
  | closed (hk : st.kind = .renc) (hl : ¬s.rp < s.slen) (hc : s.cnt ≠ 0#8) (hr : s.hasRoom st.dst (s.wp + 1) = true) :
      StageStepTo i st s
        ({ (s.memWrite st.dst s.wp s.cur).memWrite st.dst (s.wp + 1) s.cnt with wp := s.wp + 2 }.closeRun)
  | copied (hk : st.kind = .rdec) (hc : 0 < s.rem.toNat) (hr : s.hasRoom st.dst s.wp = true) :
      StageStepTo i st s { s.memWrite st.dst s.wp s.val with wp := s.wp + 1, rem := s.rem - 1#8 }
  | parsed (v n : Byte) (hk : st.kind = .rdec) (hc : ¬0 < s.rem.toNat) (hl : s.rp < s.slen)
      (hv : s.memRead st.src s.rp = some v) (hn : s.memRead st.src (s.rp + 1) = some n) :
      StageStepTo i st s (s.takeRecord v n)
  | full (a : Nat) (ha : s.wp ≤ a) (hr : s.hasRoom st.dst a = false) : StageStepTo i st s (raise .capacityExceeded s)
  | ended (hl : ¬s.rp < s.slen) (hc : st.kind = .renc → s.cnt = 0#8) (hm : st.kind = .rdec → ¬0 < s.rem.toNat) :
      StageStepTo i st s (stageDone i s)

/-- What a step of a stage can do when it answers a next state. -/
theorem stageStep_next {i : Instr} {st : Stage} {s t : State} (h : stageStep i st s = .next t) : StageStepTo i st s t := by
  obtain ⟨kind, src, dst⟩ := st
  cases kind
  case denc =>
    simp only [stageStep, dencStep, State.sourceLeft, decide_eq_true_eq] at h
    split at h
    · rename_i hl
      split at h
      · cases h
      · rename_i b hb
        cases h
        obtain ⟨hr, e⟩ | ⟨hr, e⟩ := produce_cases ⟨.denc, src, dst⟩ (subMod b s.prev) (State.withPrev b) s
        · rw [e]; exact .denc b rfl hl hb hr
        · rw [e]; exact .full _ (Nat.le_refl _) hr
    · cases h; exact .ended ‹_› nofun nofun
  case ddec =>
    simp only [stageStep, ddecStep, State.sourceLeft, decide_eq_true_eq] at h
    split at h
    · rename_i hl
      split at h
      · cases h
      · rename_i b hb
        cases h
        obtain ⟨hr, e⟩ | ⟨hr, e⟩ :=
          produce_cases ⟨.ddec, src, dst⟩ (addMod b s.acc) (State.withAcc (addMod b s.acc)) s
        · rw [e]; exact .ddec b rfl hl hb hr
        · rw [e]; exact .full _ (Nat.le_refl _) hr
    · cases h; exact .ended ‹_› nofun nofun
  case renc =>
    simp only [stageStep, rencStep, State.sourceLeft, State.noOpenRun, decide_eq_true_eq] at h
    split at h
    · rename_i hl
      split at h
      · cases h
      · rename_i b hb
        split at h
        · cases h; exact .opened b rfl hl hb ‹_›
        · rename_i hc
          split at h
          · rename_i hm
            obtain ⟨rfl, hm⟩ := hm
            cases h; exact .grown rfl hl hb hc hm
          · rename_i hm
            cases h
            obtain ⟨hr, e⟩ | ⟨hr, e⟩ := emitThen_cases ⟨.renc, src, dst⟩ (State.openRun b) s
            · rw [e]; exact .turned b rfl hl hb hc hm hr
            · rw [e]; exact .full _ (Nat.le_succ _) hr
    · rename_i hl
      split at h
      · cases h; exact .ended hl (fun _ => ‹_›) nofun
      · rename_i hc
        cases h
        obtain ⟨hr, e⟩ | ⟨hr, e⟩ := emitThen_cases ⟨.renc, src, dst⟩ State.closeRun s
        · rw [e]; exact .closed rfl hl hc hr
        · rw [e]; exact .full _ (Nat.le_succ _) hr
  case rdec =>
    simp only [stageStep, rdecStep, State.copiesPending, State.sourceLeft, decide_eq_true_eq] at h
    split at h
    · rename_i hc
      cases h
      obtain ⟨hr, e⟩ | ⟨hr, e⟩ := expand_cases ⟨.rdec, src, dst⟩ s
      · rw [e]; exact .copied rfl hc hr
      · rw [e]; exact .full _ (Nat.le_refl _) hr
    · rename_i hc
      split at h
      · rename_i hl
        split at h
        · rename_i v n hv hn
          cases h; exact .parsed v n rfl hc hl hv hn
        · cases h
      · cases h; exact .ended ‹_› nofun (fun _ => hc)

/-- A core step that answers a next state is a step of the active stage. -/
theorem coreStep_next {i : Instr} {s t : State} (h : coreStep i s = .next t) :
    ∃ st, activeStage i s = some st ∧ StageStepTo i st s t := by
  simp only [coreStep] at h
  split at h
  · cases h
  · exact ⟨_, ‹_›, stageStep_next h⟩

/-- `StageDone` ends the operation or enters stage 1 (R183). -/
theorem stageDone_cases (i : Instr) (s : State) :
    (s.stg.val + 1 = (sched i).length ∧ stageDone i s = finishOperation s) ∨
    (s.stg.val + 1 ≠ (sched i).length ∧ stageDone i s = enterStageOne s) := by
  by_cases h : s.stg.val + 1 = (sched i).length
  · exact .inl ⟨h, by rw [stageDone, if_pos h]⟩
  · exact .inr ⟨h, by rw [stageDone, if_neg h]⟩

/-- What no core step changes: the host's registers and buffer (R42), the parameters, and the model's own records. -/
structure CoreKeeps (s t : State) : Prop where
  cmd : t.cmd = s.cmd
  ilen : t.ilen = s.ilen
  ibuf : t.ibuf = s.ibuf
  params : t.params = s.params
  script : t.script = s.script
  replies : t.replies = s.replies
  draws : t.draws = s.draws

theorem CoreKeeps.refl (s : State) : CoreKeeps s s := ⟨rfl, rfl, rfl, rfl, rfl, rfl, rfl⟩

theorem CoreKeeps.trans {s t u : State} (h : CoreKeeps s t) (k : CoreKeeps t u) : CoreKeeps s u :=
  ⟨k.cmd.trans h.cmd, k.ilen.trans h.ilen, k.ibuf.trans h.ibuf, k.params.trans h.params, k.script.trans h.script,
    k.replies.trans h.replies, k.draws.trans h.draws⟩

theorem State.memWrite_ibuf (s : State) {sp : Space} (a : Nat) (v : Byte) (h : sp ≠ .ibuf) :
    (s.memWrite sp a v).ibuf = s.ibuf := by
  cases sp <;> first | rfl | exact absurd rfl h

/-- A core step keeps what R42 says the core never writes. -/
theorem coreStep_keeps {i : Instr} {s t : State} (h : coreStep i s = .next t) : CoreKeeps s t := by
  obtain ⟨st, ha, ht⟩ := coreStep_next h
  have hd := (activeStage_spaces ha).1
  cases ht
  case ended =>
    obtain ⟨_, e⟩ | ⟨_, e⟩ := stageDone_cases i s <;> rw [e] <;> constructor <;> simp
  all_goals constructor <;> simp [State.memWrite_ibuf _ _ _ hd]

/-- A core step refuses nothing. -/
theorem coreStep_not_refused (i : Instr) (s : State) (r : Refusal) : coreStep i s ≠ .refused r := by
  simp only [coreStep]
  split
  · nofun
  · rename_i st _
    obtain ⟨kind, src, dst⟩ := st
    cases kind <;> simp only [stageStep, dencStep, ddecStep, rencStep, rdecStep] <;> intro h <;>
      (repeat' split at h) <;> cases h

/-! Runs of core steps. -/

theorem runCore_not_busy {i : Instr} (n : Nat) {s : State} (h : s.state ≠ .busy) : runCore i n s = .next s := by
  cases n with
  | zero => rfl
  | succ n => rw [runCore, if_neg h]

theorem runCore_step {i : Instr} (n : Nat) {s s' : State} (h : s.state = .busy) (hs : coreStep i s = .next s') :
    runCore i (n + 1) s = runCore i n s' := by
  rw [runCore, if_pos h, hs]

/-- Core steps keep what R42 says the core never writes. -/
theorem runCore_keeps {i : Instr} {n : Nat} {s t : State} (h : runCore i n s = .next t) : CoreKeeps s t := by
  induction n generalizing s with
  | zero => cases h; exact CoreKeeps.refl _
  | succ n ih =>
    rw [runCore] at h
    split at h
    · split at h
      · exact (coreStep_keeps ‹_›).trans (ih h)
      · cases h
      · cases h
    · cases h; exact CoreKeeps.refl _

/-- Runs of core steps compose. -/
theorem runCore_add {i : Instr} {a : Nat} (b : Nat) {s t : State} (h : runCore i a s = .next t) :
    runCore i (a + b) s = runCore i b t := by
  induction a generalizing s with
  | zero => cases h; simp
  | succ a ih =>
    rw [Nat.add_right_comm]
    by_cases hb : s.state = .busy
    · rw [runCore, if_pos hb] at h ⊢
      cases hc : coreStep i s with
      | next s' => rw [hc] at h; exact ih h
      | fault f => rw [hc] at h; cases h
      | refused r => rw [hc] at h; cases h
    · rw [runCore_not_busy _ hb] at h ⊢
      cases h
      rw [runCore_not_busy _ hb]

/-- A run of core steps and one more. -/
theorem runCore_snoc {i : Instr} {a : Nat} {s t u : State} (h : runCore i a s = .next t) (hb : t.state = .busy)
    (hs : coreStep i t = .next u) : runCore i (a + 1) s = .next u := by
  rw [runCore_add 1 h, runCore_step 0 hb hs]; rfl

/-- Once an operation has ended, a larger bound on its core steps changes nothing (R184). -/
theorem runCore_le {i : Instr} {k n : Nat} {s t : State} (h : runCore i k s = .next t) (ht : t.state ≠ .busy) (hk : k ≤ n) :
    runCore i n s = .next t := by
  obtain ⟨d, rfl⟩ := Nat.exists_eq_add_of_le hk
  rw [runCore_add d h, runCore_not_busy _ ht]

/-- Every meaning is the whole operation of its command (R172 to R177). -/
theorem exec_eq_operation (i : Instr) (s : State) : exec i s = operation i s := by
  cases i <;> rfl

theorem runSteps_next (k : Nat) {s t : State} (h : step s = .next t) : runSteps (k + 1) s = runSteps k t := by
  rw [runSteps, h]

theorem runSteps_fault (k : Nat) {s : State} {f : Fault} (h : step s = .fault f) : runSteps (k + 1) s = .fault f := by
  rw [runSteps, h]

theorem runSteps_refused (k : Nat) {s : State} {r : Refusal} (h : step s = .refused r) :
    runSteps (k + 1) s = .refused r := by
  rw [runSteps, h]

/-- One more step of any machine's run. -/
theorem core_run_succ (M : Host.Core) (k : Nat) (s : M.State) :
    M.run (k + 1) s = match M.step s with
      | .next s' => M.run k s'
      | .fault r => .fault r
      | .refused r => .refused r := rfl

/-- `runSteps` is the run of the machine the host sees. -/
theorem core_run_eq_runSteps (k : Nat) (s : State) : Host.Core.run Sys2Proof.core k s = runSteps k s := by
  induction k generalizing s with
  | zero => rfl
  | succ k ih =>
    have hr := core_run_succ Sys2Proof.core k s
    have he : Sys2Proof.core.step s = step s := rfl
    cases h : step s with
    | next t =>
      rw [he.trans h] at hr
      exact (hr.trans (ih t)).trans (runSteps_next k h).symm
    | fault f =>
      rw [he.trans h] at hr
      exact hr.trans (runSteps_fault k h).symm
    | refused r =>
      rw [he.trans h] at hr
      exact hr.trans (runSteps_refused k h).symm

/-- With nothing left in the script, steps of the machine are core steps of the command in CMD. -/
theorem runSteps_eq_runCore {i : Instr} (k : Nat) {s : State} (hs : s.script = []) (hd : decode s.cmd = .ok i) :
    runSteps k s = runCore i k s := by
  induction k generalizing s with
  | zero => rfl
  | succ k ih =>
    have hstep : step s = coreTurn s := by simp only [step, hs]
    by_cases hb : s.state = .busy
    · have hc : step s = coreStep i s := by rw [hstep, coreTurn, if_pos hb, hd]
      rw [runCore, if_pos hb]
      cases h : coreStep i s with
      | next s' =>
        have hk := coreStep_keeps h
        rw [runSteps_next k (hc.trans h)]
        exact ih (hk.script.trans hs) (by rw [hk.cmd, hd])
      | fault f => exact runSteps_fault k (hc.trans h)
      | refused r => exact absurd h (coreStep_not_refused i s r)
    · have hc : step s = .next s := by rw [hstep, coreTurn, if_neg hb]
      rw [runCore_not_busy _ hb, runSteps_next k hc, ih hs hd, runCore_not_busy _ hb]

end Sys2Proof.Machine
end

