-- ==== Sys2Proof/Laws/Transforms.lean ====
section
/-! SUPPORT. The small laws of the function level's own definitions. -/

namespace Sys2Proof.Machine

/-- The difference mod 256 is what an 8-bit subtraction gives (R102). -/
theorem subMod_eq_sub (a b : Byte) : subMod a b = a - b := by
  apply BitVec.eq_of_toNat_eq
  have ha := a.isLt
  have hb := b.isLt
  rw [subMod, BitVec.toNat_ofInt, BitVec.toNat_sub]
  omega

/-- The sum mod 256 is what an 8-bit addition gives (R117). -/
theorem addMod_eq_add (a b : Byte) : addMod a b = a + b := by
  apply BitVec.eq_of_toNat_eq
  simp [addMod, BitVec.toNat_add]

@[simp] theorem deltaDiffs_nil (p : Byte) : deltaDiffs p [] = [] := rfl

@[simp] theorem deltaDiffs_cons (p b : Byte) (x : ByteSeq) : deltaDiffs p (b :: x) = subMod b p :: deltaDiffs b x := rfl

@[simp] theorem deltaSums_nil (o : Byte) : deltaSums o [] = [] := rfl

@[simp] theorem deltaSums_cons (o b : Byte) (y : ByteSeq) :
    deltaSums o (b :: y) = addMod b o :: deltaSums (addMod b o) y := rfl

@[simp] theorem runPrefix_nil (v : Byte) : runPrefix v [] = 0 := rfl

theorem runPrefix_cons (v b : Byte) (x : ByteSeq) : runPrefix v (b :: x) = if b = v then runPrefix v x + 1 else 0 := rfl

/-- A run is no longer than its sequence. -/
theorem runPrefix_le_length (v : Byte) (x : ByteSeq) : runPrefix v x ≤ x.length := by
  induction x with
  | nil => simp
  | cons b x ih => rw [runPrefix_cons]; split <;> simp [ih]

/-- The bound on `rleEncode`'s recursion does not matter once it covers the input. -/
theorem rleEncodeUpTo_enough (n : Nat) (x : ByteSeq) (h : x.length ≤ n) : rleEncodeUpTo n x = rleEncode x := by
  suffices H : ∀ k n x, x.length ≤ n → x.length ≤ k → rleEncodeUpTo n x = rleEncodeUpTo k x from H _ _ _ h (Nat.le_refl _)
  intro k
  induction k with
  | zero =>
    intro n x _ hk
    obtain rfl : x = [] := List.length_eq_zero_iff.1 (by omega)
    cases n <;> rfl
  | succ k ih =>
    intro n x hn hk
    cases x with
    | nil => cases n <;> rfl
    | cons v x =>
      cases n with
      | zero => simp at hn
      | succ n =>
        have hd : ((v :: x).drop (min (runPrefix v (v :: x)) Config.runMax)).length ≤ x.length := by
          have : 1 ≤ min (runPrefix v (v :: x)) Config.runMax := by
            simp [runPrefix_cons, Config.runMax]
          simp only [List.length_drop, List.length_cons]
          omega
        simp only [List.length_cons] at hn hk
        simp only [rleEncodeUpTo]
        rw [ih n _ (by omega) (by omega)]

@[simp] theorem rleDecode_nil : rleDecode [] = some [] := rfl

@[simp] theorem rleDecode_single (v : Byte) : rleDecode [v] = none := rfl

/-- One record of `rleDecode` (R150). -/
theorem rleDecode_record (v n : Byte) (s : ByteSeq) :
    rleDecode (v :: n :: s) = (rleDecode s).map (List.replicate n.toNat v ++ ·) := by
  rw [rleDecode]
  cases rleDecode s <;> rfl

end Sys2Proof.Machine
end

