-- ==== Sys2Proof/Tests/Slice0.lean ====
section
/-! SUPPORT. The model's own tests: ill-formed terms refused, words written out from the encoding tables, the spec's own
vectors, and for every statement with hypotheses a concrete state that meets them. -/

namespace Sys2Proof.Tests

open Sys2Proof Sys2Proof.Machine

/-! Helpers. -/

/-- The machine after reset with a command and an input loaded (R232). -/
def loaded (c : Cmd) (x : List Byte) : State :=
  { State.reset with cmd := c, ilen := x.length, ibuf := (List.range x.length).zip x }

/-- The same with finite capacities. -/
def capped (c : Cmd) (x : List Byte) (i m o : Nat) : State :=
  { loaded c x with params := ⟨some i, some m, some o, some 8⟩ }

/-- A state after `k` core steps of a command whose `H_START` has been accepted. -/
def after (i : Instr) (k : Nat) (s : State) : State := (nextOf (runCore i k (hostStart s))).getD s

/-- What a host sees of an operation's end. -/
def seen (a : Answer) : Option (OpState × Err × Nat × Option (List Byte)) :=
  (nextOf a).map fun t => (t.state, t.err, t.olen, t.result)

/-- A state whose next event is one host operation. -/
def withOp (op : HostOp) (s : State) : State := { s with script := [.host op] }

/-! Ill-formed terms are refused. -/

/-- R6: a width that leaves no room for a capacity plus one, one that leaves just enough, and a finite width beside an
infinite capacity. -/
theorem test_wf_params :
    (⟨some 255, some 4, some 4, some 8⟩ : Params).wf = false ∧ (⟨some 4, some 255, some 4, some 8⟩ : Params).wf = false ∧
    (⟨some 4, some 4, some 255, some 8⟩ : Params).wf = false ∧ (⟨none, some 4, some 4, some 8⟩ : Params).wf = false ∧
    (⟨some 254, some 254, some 254, some 8⟩ : Params).wf = true ∧ Params.unbounded.wf = true := by decide

/-- R187: a length of more than `LEN_W` bits is no operand of `H_WRITE_ILEN`. -/
theorem test_wf_host_op :
    HostOp.wf ⟨some 4, some 4, some 4, some 8⟩ (.writeIlen 256) = false ∧
    HostOp.wf ⟨some 4, some 4, some 4, some 8⟩ (.writeIlen 255) = true ∧
    HostOp.wf Params.unbounded (.writeIlen 256) = true := by decide

/-- R91: no command has a field that could be ill-formed. -/
theorem test_wf_commands :
    [Instr.compressDeltaRle, .compressRleOnly, .compressDeltaOnly, .decompressDeltaRle, .decompressRleOnly,
      .decompressDeltaOnly].map Instr.wf = List.replicate 6 true := by decide

/-- The canonical form of a buffer, an entry out of order, and one listed twice. -/
theorem test_wf_memory :
    Memory.wf [(0, 7#8), (1, 7#8)] = true ∧ Memory.wf [(1, 7#8), (0, 7#8)] = false ∧
    Memory.wf [(1, 7#8), (1, 7#8)] = false := by decide

/-! Words written out bit by bit from R80 (DIR, then the two characters) and R81 (`'0'` is 0011 0000, `'1'` 0011 0001,
`'2'` 0011 0010, `'3'` 0011 0011). -/

theorem test_decode_compress_deltarle : decode 0b00011000000110001#17 = .ok .compressDeltaRle := by decide
theorem test_decode_compress_rleonly : decode 0b00011000000110010#17 = .ok .compressRleOnly := by decide
theorem test_decode_compress_deltaonly : decode 0b00011000000110011#17 = .ok .compressDeltaOnly := by decide
theorem test_decode_decompress_deltarle : decode 0b10011000000110001#17 = .ok .decompressDeltaRle := by decide
theorem test_decode_decompress_rleonly : decode 0b10011000000110010#17 = .ok .decompressRleOnly := by decide
theorem test_decode_decompress_deltaonly : decode 0b10011000000110011#17 = .ok .decompressDeltaOnly := by decide

/-- R85: `"00"`, `"04"`, `"10"` (the characters of `"01"` swapped), the number 1, and `"99"` in both directions. -/
theorem test_decode_illegal :
    [0b00011000000110000#17, 0b00011000000110100#17, 0b00011000100110000#17, 1#17, 0x03939#17, 0x13939#17].map decode =
      List.replicate 6 (.error .invalidMethod) := by decide

/-- The table's numbering: 24 bits hold the word, and a bit above the word makes it none. -/
theorem test_decode_table_word :
    decodeTableWord 17 0x13032 = some .decompressRleOnly ∧ decodeTableWord 24 0x03033 = some .compressDeltaOnly ∧
    decodeTableWord 24 0x23033 = none ∧ decodeTableWord 17 0x03030 = none := by decide

/-! The spec's vectors (95_test_vectors.md), one whole operation each. -/

/-- S8 -/
theorem test_compress_deltarle_s8 :
    seen (exec .compressDeltaRle (loaded 0x03031#17 [10#8, 10#8, 10#8, 12#8, 12#8])) =
      some (.done, .none, 8, some [10#8, 1#8, 0#8, 2#8, 2#8, 1#8, 0#8, 1#8]) := by decide

/-- S4 -/
theorem test_compress_rleonly_s4 :
    seen (exec .compressRleOnly (loaded 0x03032#17 [1#8, 2#8, 3#8, 4#8])) =
      some (.done, .none, 8, some [1#8, 1#8, 2#8, 1#8, 3#8, 1#8, 4#8, 1#8]) := by decide

/-- DE15 -/
theorem test_compress_deltaonly_de15 :
    seen (exec .compressDeltaOnly (loaded 0x03033#17 [200#8, 100#8, 50#8, 250#8, 5#8])) =
      some (.done, .none, 5, some [200#8, 156#8, 206#8, 200#8, 11#8]) := by decide

/-- S8, back -/
theorem test_decompress_deltarle_s8 :
    seen (exec .decompressDeltaRle (loaded 0x13031#17 [10#8, 1#8, 0#8, 2#8, 2#8, 1#8, 0#8, 1#8])) =
      some (.done, .none, 5, some [10#8, 10#8, 10#8, 12#8, 12#8]) := by decide

/-- S6 -/
theorem test_decompress_rleonly_s6 :
    seen (exec .decompressRleOnly (loaded 0x13032#17 [5#8])) = some (.error, .malformedRLEStream, 0, some []) := by decide

/-- DD13 -/
theorem test_decompress_deltaonly_dd13 :
    seen (exec .decompressDeltaOnly (loaded 0x13033#17 [200#8, 156#8, 206#8, 200#8, 11#8])) =
      some (.done, .none, 5, some [200#8, 100#8, 50#8, 250#8, 5#8]) := by decide

/-- R154: a record of run length 0. -/
theorem test_decompress_rleonly_zero_run :
    seen (exec .decompressRleOnly (loaded 0x13032#17 [7#8, 0#8, 9#8, 2#8])) = some (.done, .none, 2, some [9#8, 9#8]) := by
  decide

/-- R172: MBUF one byte too small for the intermediate sequence. -/
theorem test_compress_deltarle_mbuf_full :
    seen (exec .compressDeltaRle (capped 0x03031#17 [7#8, 7#8, 7#8] 3 2 9)) =
      some (.error, .capacityExceeded, 0, some []) := by decide

/-- R206: an odd length above ICAP is malformed first. -/
theorem test_decompress_deltarle_priority :
    seen (exec .decompressDeltaRle (capped 0x13031#17 [7#8, 7#8, 7#8] 2 9 9)) =
      some (.error, .malformedRLEStream, 0, some []) := by decide

/-! Witnesses: states that meet the hypotheses of each statement, clause by clause, at the bounds of their ranges. -/

/-- What the four core-step statements assume of a state. -/
abbrev InStageOf (i : Instr) (st : Stage) (s : State) : Prop :=
  s.script = [] ∧ s.state = .busy ∧ decode s.cmd = .ok i ∧ activeStage i s = some st

/-- A `DENC` stage before its second byte. -/
def dencState : State := after .compressDeltaOnly 1 (capped 0x03033#17 [5#8, 3#8] 2 0 2)
/-- The same with OBUF full. -/
def dencFull : State := after .compressDeltaOnly 1 (capped 0x03033#17 [5#8, 3#8] 2 0 1)
/-- A `DDEC` stage before its second byte. -/
def ddecState : State := after .decompressDeltaOnly 1 (capped 0x13033#17 [5#8, 254#8] 2 0 2)
/-- The same with OBUF full. -/
def ddecFull : State := after .decompressDeltaOnly 1 (capped 0x13033#17 [5#8, 254#8] 2 0 1)
/-- A `RENC` stage with `k` bytes of `[7, 7, 8]` read and `o` bytes of room. -/
def rencState (k o : Nat) : State := after .compressRleOnly k (capped 0x03032#17 [7#8, 7#8, 8#8] 3 0 o)
/-- An `RDEC` stage on `[7, 2]` after `k` steps with `o` bytes of room. -/
def rdecState (k o : Nat) : State := after .decompressRleOnly k (capped 0x13032#17 [7#8, 2#8] 2 0 o)
/-- A finished operation. -/
def doneState : State := after .compressDeltaOnly 3 (capped 0x03033#17 [5#8, 3#8] 2 0 2)
/-- A failed operation. -/
def errorState : State := hostStart (loaded 0x13032#17 [5#8])
/-- A BUSY state whose input byte nothing has written. -/
def unwrittenState : State := hostStart { loaded 0x03033#17 [] with ilen := 1 }
/-- An `RDEC` stage before a record of which only the value byte is written. -/
def halfRecordState : State := hostStart { loaded 0x13032#17 [7#8] with ilen := 2 }

theorem test_witness_inv :
    dencState.Inv ∧ ddecState.Inv ∧ (rencState 2 4).Inv ∧ (rdecState 1 2).Inv ∧ doneState.Inv ∧ errorState.Inv ∧
      unwrittenState.Inv :=
  ⟨by decide, by decide, by decide, by decide, by decide, by decide, by decide⟩

theorem test_witness_status_word_format :
    doneState.Inv ∧ errorState.Inv ∧ dencState.Inv ∧ doneState.state = .done ∧ errorState.err = .malformedRLEStream :=
  ⟨by decide, by decide, by decide, by decide, by decide⟩

theorem test_witness_reset_event : ({ dencState with script := [.reset] } : State).script = .reset :: [] := rfl

theorem test_witness_host_writes_input_byte :
    (withOp (.writeIbuf 2 9#8) (capped 0#17 [] 3 3 3)).script = .host (.writeIbuf 2 9#8) :: [] ∧
    (capped 0#17 [] 3 3 3).state ≠ .busy ∧ indexFits 2 (capped 0#17 [] 3 3 3).params.icap = true ∧
    indexFits 3 (capped 0#17 [] 3 3 3).params.icap = false ∧
    (withOp (.writeIbuf 0 9#8) dencState).script = .host (.writeIbuf 0 9#8) :: [] ∧ dencState.state = .busy := by decide

theorem test_witness_host_writes_input_length :
    (withOp (.writeIlen 255) dencState).script = .host (.writeIlen 255) :: [] ∧ dencState.params.lengthFits 255 = true ∧
    dencState.state = .busy ∧ doneState.params.lengthFits 255 = true ∧ doneState.state ≠ .busy := by decide

theorem test_witness_too_wide_length :
    (withOp (.writeIlen 256) doneState).script = .host (.writeIlen 256) :: [] ∧ doneState.params.lengthFits 256 = false := by
  decide

theorem test_witness_host_writes_command :
    (withOp (.writeCmd 0x1ffff#17) doneState).script = .host (.writeCmd 0x1ffff#17) :: [] := rfl

/-- One start for each branch of R178, the last two at ICAP and above it. -/
theorem test_witness_host_start :
    [withOp .start dencState, withOp .start (loaded 0x13939#17 [5#8]), withOp .start (capped 0x13031#17 [5#8, 6#8, 7#8] 2 2 2),
      withOp .start (capped 0x03033#17 [5#8, 6#8, 7#8] 2 2 2), withOp .start (capped 0x03033#17 [5#8, 6#8] 2 2 2)].map
        (fun s => (s.script, (nextOf (step s)).map fun t => (t.state, t.err))) =
      [([.host .start], some (.busy, .none)), ([.host .start], some (.error, .invalidMethod)),
        ([.host .start], some (.error, .malformedRLEStream)), ([.host .start], some (.error, .capacityExceeded)),
        ([.host .start], some (.busy, .none))] := by decide

theorem test_witness_host_reads_status : (withOp .readStatus dencState).script = .host .readStatus :: [] := rfl

theorem test_witness_host_reads_output_length :
    (withOp .readOlen doneState).script = .host .readOlen :: [] ∧ doneState.state ≠ .busy ∧ dencState.state = .busy ∧
    (withOp .readOlen doneState).Inv ∧ doneState.state = .done ∧ (withOp .readOlen errorState).Inv ∧
    errorState.state = .error ∧ (withOp .readOlen (loaded 0#17 [])).Inv ∧ (loaded 0#17 []).state = .idle :=
  ⟨by decide, by decide, by decide, by decide, by decide, by decide, by decide, by decide, by decide⟩

theorem test_witness_host_reads_output_byte :
    (withOp (.readObuf 1) doneState).script = .host (.readObuf 1) :: [] ∧ doneState.state = .done ∧ 1 < doneState.olen ∧
    doneState.obuf.read 1 = some 254#8 ∧ (withOp (.readObuf 1) doneState).Inv ∧
    ¬(doneState.state = .done ∧ 2 < doneState.olen) ∧ ¬(dencState.state = .done ∧ 0 < dencState.olen) := by decide

theorem test_witness_host_reads_command_and_length :
    (withOp .readCmd dencState).script = .host .readCmd :: [] ∧
    (withOp .readIlen dencState).script = .host .readIlen :: [] := by decide

/-- Every host operation is answered with a next state while BUSY. -/
theorem test_witness_host_locked_out :
    dencState.state = .busy ∧
    [HostOp.writeIbuf 0 9#8, .writeIlen 1, .writeCmd 0#17, .start, .readStatus, .readCmd, .readIlen, .readOlen, .readObuf 0].map
      (fun op => ((withOp op dencState).script = [.host op], (nextOf (step (withOp op dencState))).isSome)) =
      List.replicate 9 (True, true) := by
  refine ⟨by decide, ?_⟩
  simp only [List.map, withOp]
  rfl

theorem test_witness_delta_encode_step :
    InStageOf .compressDeltaOnly ⟨.denc, .ibuf, .obuf⟩ dencState ∧ dencState.rp < dencState.slen ∧
    dencState.memRead .ibuf dencState.rp = some 3#8 ∧
    indexFits dencState.wp (Params.cap dencState.params .obuf) = true ∧ dencState.Inv ∧
    InStageOf .compressDeltaOnly ⟨.denc, .ibuf, .obuf⟩ dencFull ∧ dencFull.rp < dencFull.slen ∧
    dencFull.memRead .ibuf dencFull.rp = some 3#8 ∧ indexFits dencFull.wp (Params.cap dencFull.params .obuf) = false ∧
    InStageOf .compressDeltaOnly ⟨.denc, .ibuf, .obuf⟩ (hostStart (loaded 0x03033#17 [])) ∧
    ¬(hostStart (loaded 0x03033#17 [])).rp < (hostStart (loaded 0x03033#17 [])).slen ∧
    InStageOf .compressDeltaRle ⟨.denc, .ibuf, .mbuf⟩ (hostStart (loaded 0x03031#17 [5#8])) := by decide

theorem test_witness_delta_decode_step :
    InStageOf .decompressDeltaOnly ⟨.ddec, .ibuf, .obuf⟩ ddecState ∧ ddecState.rp < ddecState.slen ∧
    ddecState.memRead .ibuf ddecState.rp = some 254#8 ∧
    indexFits ddecState.wp (Params.cap ddecState.params .obuf) = true ∧ ddecState.Inv ∧
    InStageOf .decompressDeltaOnly ⟨.ddec, .ibuf, .obuf⟩ ddecFull ∧ ddecFull.rp < ddecFull.slen ∧
    ddecFull.memRead .ibuf ddecFull.rp = some 254#8 ∧ indexFits ddecFull.wp (Params.cap ddecFull.params .obuf) = false ∧
    InStageOf .decompressDeltaOnly ⟨.ddec, .ibuf, .obuf⟩ (hostStart (loaded 0x13033#17 [])) ∧
    ¬(hostStart (loaded 0x13033#17 [])).rp < (hostStart (loaded 0x13033#17 [])).slen ∧
    InStageOf .decompressDeltaRle ⟨.ddec, .mbuf, .obuf⟩ (after .decompressDeltaRle 3 (loaded 0x13031#17 [5#8, 1#8])) := by
  decide

theorem test_witness_run_length_encode_step :
    InStageOf .compressRleOnly ⟨.renc, .ibuf, .obuf⟩ (rencState 0 4) ∧ (rencState 0 4).rp < (rencState 0 4).slen ∧
    (rencState 0 4).memRead .ibuf (rencState 0 4).rp = some 7#8 ∧ (rencState 0 4).cnt = 0#8 ∧
    InStageOf .compressRleOnly ⟨.renc, .ibuf, .obuf⟩ (rencState 1 4) ∧ (rencState 1 4).rp < (rencState 1 4).slen ∧
    (rencState 1 4).memRead .ibuf (rencState 1 4).rp = some 7#8 ∧ (rencState 1 4).cnt ≠ 0#8 ∧
    7#8 = (rencState 1 4).cur ∧ (rencState 1 4).cnt.toNat < 255 ∧
    InStageOf .compressRleOnly ⟨.renc, .ibuf, .obuf⟩ (rencState 2 2) ∧ (rencState 2 2).rp < (rencState 2 2).slen ∧
    (rencState 2 2).memRead .ibuf (rencState 2 2).rp = some 8#8 ∧ (rencState 2 2).cnt ≠ 0#8 ∧ 8#8 ≠ (rencState 2 2).cur ∧
    indexFits ((rencState 2 2).wp + 1) (Params.cap (rencState 2 2).params .obuf) = true ∧
    InStageOf .compressRleOnly ⟨.renc, .ibuf, .obuf⟩ (rencState 2 1) ∧
    indexFits ((rencState 2 1).wp + 1) (Params.cap (rencState 2 1).params .obuf) = false := by decide

/-- The 256th equal byte: a full run. -/
theorem test_witness_run_length_encode_step_full_run :
    InStageOf .compressRleOnly ⟨.renc, .ibuf, .obuf⟩ { rencState 1 4 with cnt := 255#8 } ∧
    ({ rencState 1 4 with cnt := 255#8 } : State).memRead .ibuf 1 = some 7#8 ∧
    (nextOf (step { rencState 1 4 with cnt := 255#8 })).map (fun t => (t.obuf, t.cnt)) =
      some ([(0, 7#8), (1, 255#8)], 1#8) := by decide

theorem test_witness_run_length_encode_step_end :
    InStageOf .compressRleOnly ⟨.renc, .ibuf, .obuf⟩ (rencState 3 4) ∧ ¬(rencState 3 4).rp < (rencState 3 4).slen ∧
    (rencState 3 4).cnt ≠ 0#8 ∧ indexFits ((rencState 3 4).wp + 1) (Params.cap (rencState 3 4).params .obuf) = true ∧
    InStageOf .compressRleOnly ⟨.renc, .ibuf, .obuf⟩ (rencState 3 3) ∧ ¬(rencState 3 3).rp < (rencState 3 3).slen ∧
    (rencState 3 3).cnt ≠ 0#8 ∧ indexFits ((rencState 3 3).wp + 1) (Params.cap (rencState 3 3).params .obuf) = false ∧
    InStageOf .compressRleOnly ⟨.renc, .ibuf, .obuf⟩ (rencState 4 4) ∧ ¬(rencState 4 4).rp < (rencState 4 4).slen ∧
    (rencState 4 4).cnt = 0#8 := by decide

theorem test_witness_run_length_decode_step :
    InStageOf .decompressRleOnly ⟨.rdec, .ibuf, .obuf⟩ (rdecState 0 2) ∧ (rdecState 0 2).rem = 0#8 ∧
    (rdecState 0 2).rp < (rdecState 0 2).slen ∧ (rdecState 0 2).memRead .ibuf (rdecState 0 2).rp = some 7#8 ∧
    (rdecState 0 2).memRead .ibuf ((rdecState 0 2).rp + 1) = some 2#8 ∧ (rdecState 0 2).Inv ∧
    InStageOf .decompressRleOnly ⟨.rdec, .ibuf, .obuf⟩ (rdecState 2 2) ∧ 0 < (rdecState 2 2).rem.toNat ∧
    indexFits (rdecState 2 2).wp (Params.cap (rdecState 2 2).params .obuf) = true ∧
    InStageOf .decompressRleOnly ⟨.rdec, .ibuf, .obuf⟩ (rdecState 2 1) ∧ 0 < (rdecState 2 1).rem.toNat ∧
    indexFits (rdecState 2 1).wp (Params.cap (rdecState 2 1).params .obuf) = false ∧
    InStageOf .decompressRleOnly ⟨.rdec, .ibuf, .obuf⟩ (rdecState 3 2) ∧ (rdecState 3 2).rem = 0#8 ∧
    ¬(rdecState 3 2).rp < (rdecState 3 2).slen := by decide

theorem test_witness_unwritten_input :
    InStageOf .compressDeltaOnly ⟨.denc, .ibuf, .obuf⟩ unwrittenState ∧ unwrittenState.rem = 0#8 ∧
    unwrittenState.rp < unwrittenState.slen ∧ unwrittenState.memRead .ibuf unwrittenState.rp = none ∧
    unwrittenState.Inv := by decide

theorem test_witness_unwritten_input_stops : step unwrittenState = .fault .unwrittenByte := rfl

/-- The run length of the record at RP is unwritten, its value byte is not. -/
theorem test_witness_unwritten_run_length :
    InStageOf .decompressRleOnly ⟨.rdec, .ibuf, .obuf⟩ halfRecordState ∧ halfRecordState.rem = 0#8 ∧
    halfRecordState.rp < halfRecordState.slen ∧ halfRecordState.memRead .ibuf halfRecordState.rp = some 7#8 ∧
    halfRecordState.memRead .ibuf (halfRecordState.rp + 1) = none ∧ halfRecordState.Inv := by decide

theorem test_witness_error_entry :
    (nextOf (step (withOp .start (loaded 0x13032#17 [5#8])))).map State.state = some .error ∧
    (loaded 0x13032#17 [5#8]).state ≠ .error ∧
    dencFull.script = [] ∧ (nextOf (step dencFull)).map State.state = some .error ∧ dencFull.state ≠ .error := by decide

theorem test_witness_delta_encode_stage :
    StageStart .compressDeltaOnly ⟨.denc, .ibuf, .obuf⟩ (hostStart (capped 0x03033#17 [5#8, 3#8] 2 0 2)) ∧
    ((hostStart (capped 0x03033#17 [5#8, 3#8] 2 0 2)).buffer .ibuf).readSeq 0 2 = some [5#8, 3#8] ∧
    lengthWithin 2 (some 2) = true ∧
    StageStart .compressDeltaRle ⟨.denc, .ibuf, .mbuf⟩ (hostStart (capped 0x03031#17 [5#8, 3#8] 2 1 2)) ∧
    Params.cap (capped 0x03031#17 [5#8, 3#8] 2 1 2).params .mbuf = some 1 := by decide

theorem test_witness_delta_decode_stage :
    StageStart .decompressDeltaOnly ⟨.ddec, .ibuf, .obuf⟩ (hostStart (capped 0x13033#17 [5#8, 3#8] 2 0 2)) ∧
    ((hostStart (capped 0x13033#17 [5#8, 3#8] 2 0 2)).buffer .ibuf).readSeq 0 2 = some [5#8, 3#8] ∧
    StageStart .decompressDeltaRle ⟨.ddec, .mbuf, .obuf⟩ (after .decompressDeltaRle 4 (capped 0x13031#17 [5#8, 2#8] 2 2 1)) ∧
    ((after .decompressDeltaRle 4 (capped 0x13031#17 [5#8, 2#8] 2 2 1)).buffer .mbuf).readSeq 0 2 = some [5#8, 5#8] ∧
    Params.cap (capped 0x13031#17 [5#8, 2#8] 2 2 1).params .obuf = some 1 := by decide

theorem test_witness_run_length_encode_stage :
    StageStart .compressRleOnly ⟨.renc, .ibuf, .obuf⟩ (rencState 0 4) ∧
    ((rencState 0 4).buffer .ibuf).readSeq 0 3 = some [7#8, 7#8, 8#8] ∧
    (nextOf (runSteps 3 (rencState 0 4))).map State.state = some .busy ∧
    lengthWithin (rleEncode [7#8, 7#8, 8#8]).length (some 4) = true ∧
    StageStart .compressRleOnly ⟨.renc, .ibuf, .obuf⟩ (rencState 0 3) ∧
    lengthWithin (rleEncode [7#8, 7#8, 8#8]).length (some 3) = false ∧
    StageStart .compressRleOnly ⟨.renc, .ibuf, .obuf⟩ (hostStart (loaded 0x03032#17 [])) ∧
    StageStart .compressDeltaRle ⟨.renc, .mbuf, .obuf⟩ (after .compressDeltaRle 2 (loaded 0x03031#17 [5#8])) := by decide

theorem test_witness_run_length_decode_stage :
    StageStart .decompressRleOnly ⟨.rdec, .ibuf, .obuf⟩ (rdecState 0 2) ∧
    ((rdecState 0 2).buffer .ibuf).readSeq 0 2 = some [7#8, 2#8] ∧ rleDecode [7#8, 2#8] = some [7#8, 7#8] ∧
    (nextOf (runSteps 3 (rdecState 0 2))).map State.state = some .busy ∧ lengthWithin 2 (some 2) = true ∧
    StageStart .decompressRleOnly ⟨.rdec, .ibuf, .obuf⟩ (rdecState 0 1) ∧
    Params.cap (rdecState 0 1).params .obuf = some 1 := by decide

/-- Inputs that just fit, and each capacity one short. -/
theorem test_witness_command_results :
    (capped 0x03031#17 [7#8, 7#8] 2 2 4).state ≠ .busy ∧
    (capped 0x03031#17 [7#8, 7#8] 2 2 4).input = some [7#8, 7#8] ∧
    (rleEncode (deltaEncode [7#8, 7#8])).length = 4 ∧ (rleEncode [7#8, 7#8]).length = 2 ∧
    (deltaEncode [7#8, 7#8]).length = 2 ∧ lengthWithin 2 (some 2) = true ∧ lengthWithin 4 (some 4) = true ∧
    ¬(lengthWithin 2 (some 1) = true ∧ lengthWithin 2 (some 2) = true) ∧
    ¬(lengthWithin 2 (some 2) = true ∧ lengthWithin 2 (some 1) = true) ∧
    ¬(lengthWithin 2 (some 2) = true ∧ lengthWithin 2 (some 2) = true ∧ lengthWithin 4 (some 3) = true) := by decide

theorem test_witness_decompress_results :
    (loaded 0x13031#17 [7#8, 2#8]).state ≠ .busy ∧ (loaded 0x13031#17 [7#8, 2#8]).input = some [7#8, 2#8] ∧
    rleDecode [7#8, 2#8] = some [7#8, 7#8] ∧ (loaded 0x13031#17 [7#8]).input = some [7#8] ∧ [7#8].length % 2 = 1 := by decide

theorem test_witness_command_ignored_while_busy : dencState.state = .busy := by decide

/-- One state for each row of R185's table. -/
theorem test_witness_two_levels :
    [loaded 0x03939#17 [5#8], loaded 0x13031#17 [5#8], capped 0x03033#17 [5#8] 1 0 1, capped 0x03033#17 [5#8] 1 0 0].map
      (fun s => ((withOp .start s).script, s.state, (withOp .start s).input)) =
      List.replicate 4 ([.host .start], .idle, some [5#8]) ∧
    functionLevel 0x03939#17 [5#8] = .error .invalidMethod ∧ functionLevel 0x13031#17 [5#8] = .error .malformedRLEStream ∧
    functionLevel 0x03033#17 [5#8] = .ok [5#8] ∧
    capacitiesSuffice ⟨some 1, some 0, some 1, some 8⟩ .compressDeltaOnly [5#8] [5#8] = true ∧
    capacitiesSuffice ⟨some 1, some 0, some 0, some 8⟩ .compressDeltaOnly [5#8] [5#8] = false := by decide

theorem test_witness_every_operation_ends :
    dencState.Inv ∧ dencState.state = .busy ∧ dencState.script = [] ∧ dencState.input.isSome = true ∧
    (rdecState 2 1).Inv ∧ (rdecState 2 1).state = .busy ∧ (rdecState 2 1).script = [] ∧
    (rdecState 2 1).input.isSome = true := by decide

theorem test_witness_which_command_raises_what :
    (loaded 0x13032#17 [5#8]).state ≠ .busy ∧
    (nextOf (exec .decompressRleOnly (loaded 0x13032#17 [5#8]))).map State.err = some .malformedRLEStream ∧
    (nextOf (exec .decompressDeltaOnly (loaded 0x13033#17 [5#8]))).map State.err = some .none ∧
    (nextOf (exec .compressDeltaOnly (capped 0x03033#17 [5#8] 1 0 0))).map State.err = some .capacityExceeded := by decide

theorem test_witness_illegal_method :
    (withOp .start (loaded 0x13939#17 [5#8])).script = .host .start :: [] ∧
    ({ loaded 0x03030#17 [] with script := [.execute] } : State).script = .execute :: [] ∧
    (loaded 0x13939#17 [5#8]).state ≠ .busy ∧ cmdMethod 0x13939#17 ≠ 0x3031#16 ∧ cmdMethod 0x13939#17 ≠ 0x3032#16 ∧
    cmdMethod 0x13939#17 ≠ 0x3033#16 ∧ cmdMethod 0x03030#17 ≠ 0x3031#16 := by decide

theorem test_witness_odd_stream :
    (loaded 0x13031#17 [5#8]).state ≠ .busy ∧ (loaded 0x13031#17 [5#8]).ilen % 2 = 1 ∧
    (withOp .start (loaded 0x13031#17 [5#8])).script = .host .start :: [] ∧
    decode (loaded 0x13031#17 [5#8]).cmd = .ok .decompressDeltaRle ∧
    decode (loaded 0x13032#17 [5#8]).cmd = .ok .decompressRleOnly := by decide

/-- Every command answers a next state somewhere, a two-stage one also from within its first stage. -/
theorem test_witness_frames :
    (nextOf (exec .compressRleOnly (loaded 0x03032#17 [5#8]))).isSome = true ∧
    (nextOf (exec .compressDeltaOnly (loaded 0x03033#17 [5#8]))).isSome = true ∧
    (nextOf (exec .decompressRleOnly (loaded 0x13032#17 [5#8, 1#8]))).isSome = true ∧
    (nextOf (exec .decompressDeltaOnly (loaded 0x13033#17 [5#8]))).isSome = true ∧
    (nextOf (exec .compressDeltaRle (loaded 0x03031#17 [5#8]))).map State.stg = some 1 ∧
    (nextOf (exec .compressDeltaRle (capped 0x03031#17 [5#8] 1 0 2))).map State.stg = some 0 ∧
    (nextOf (exec .decompressDeltaRle (loaded 0x13031#17 [5#8, 1#8]))).map State.stg = some 1 := by decide

theorem test_witness_core_never_writes_inputs :
    dencState.script = [] ∧ (nextOf (step dencState)).isSome = true ∧
    ([Event.core, .execute, .host .start].map fun e =>
      (nextOf (step { loaded 0x03033#17 [5#8] with script := [e] })).isSome) = [true, true, true] := by decide

theorem test_witness_step_runs :
    decode dencState.cmd = .ok .compressDeltaOnly ∧ dencState.script = [] ∧ dencState.state = .busy ∧
    ({ doneState with script := [.execute] } : State).script = .execute :: [] ∧
    ({ dencState with script := [.core] } : State).script = .core :: [] ∧
    decode doneState.cmd = .ok .compressDeltaOnly ∧ doneState.script = [] ∧ doneState.state ≠ .busy := by decide

theorem test_witness_placed_command :
    [0x03031, 0x03032, 0x03033, 0x13031, 0x13032, 0x13033].map (decodeTableWord 24) =
      [some .compressDeltaRle, some .compressRleOnly, some .compressDeltaOnly, some .decompressDeltaRle,
        some .decompressRleOnly, some .decompressDeltaOnly] := by decide

/-- A placed command runs from reset, and so does one placed over a running operation. -/
theorem test_placed_command_runs :
    seen (step (State.reset.withFetchWord 24 0x13031)) = some (.done, .none, 0, some []) ∧
    seen (step (dencState.withFetchWord 24 0x03033)) = some (.done, .none, 2, some [5#8, 254#8]) :=
  ⟨by decide, by decide⟩

theorem test_witness_step_keeps_invariant :
    dencState.Inv ∧ (nextOf (step dencState)).isSome = true ∧ (withOp .start doneState).Inv ∧
    (nextOf (step (withOp .start doneState))).map State.state = some .busy := by decide

theorem test_witness_no_fault_on_written_input :
    dencState.Inv ∧ dencState.input.isSome = true ∧ unwrittenState.Inv ∧ unwrittenState.input.isSome = false := by decide

theorem test_witness_state_transitions :
    ([Event.reset, .host .start, .execute, .host .readStatus, .core].map fun e =>
      (nextOf (step { doneState with script := [e] })).map State.state) =
      [some .idle, some .busy, some .done, some .done, some .done] ∧
    (nextOf (step dencState)).map State.state = some .busy ∧ (nextOf (step doneState)).map State.state = some .done := by decide

/-- Two states that differ in hidden registers and MBUF. -/
theorem test_witness_result_independent :
    (loaded 0x03031#17 [5#8]).state ≠ .busy ∧ (loaded 0x03031#17 [5#8]).input = some [5#8] ∧
    ({ loaded 0x03031#17 [5#8] with cur := 9#8, cnt := 9#8, mbuf := [(0, 1#8)] } : State).input = some [5#8] ∧
    (withOp .readStatus doneState).script = .host .readStatus :: [] ∧
    (nextOf (step (withOp .readStatus doneState))).isSome = true ∧
    (nextOf (step (withOp .readStatus { doneState with cur := 9#8 }))).isSome = true := by decide

theorem test_witness_no_partial_result :
    (loaded 0x13032#17 [5#8]).state ≠ .busy ∧
    (nextOf (exec .decompressRleOnly (loaded 0x13032#17 [5#8]))).map State.err = some .malformedRLEStream ∧
    (nextOf (exec .compressRleOnly (loaded 0x03032#17 [5#8]))).map State.state = some .done ∧
    ({ loaded 0x03034#17 [5#8] with script := [.execute] } : State).script = [.execute] ∧
    decode (loaded 0x03034#17 [5#8]).cmd = .error .invalidMethod := by decide

theorem test_witness_byte_arithmetic :
    (0#8).toNat ≤ (0#8).toNat ∧ (254#8).toNat < (255#8).toNat ∧ (254#8).toNat + (1#8).toNat ≤ 255 ∧
    255 < (255#8).toNat + (1#8).toNat := by decide

theorem test_witness_delta_by_index :
    [255#8, 0#8][1 - 1]? = some 255#8 ∧ [255#8, 0#8][1]? = some 0#8 ∧
    (deltaDecode [255#8, 1#8])[1 - 1]? = some 255#8 ∧ [255#8, 1#8][1]? = some 1#8 ∧ 1 < [255#8, 1#8].length := by decide

theorem test_witness_run_length_encode_recursion :
    2 = ((7#8 :: [7#8, 8#8]).takeWhile fun b => b == 7#8).length ∧ 2 = min 2 255 ∧ 255 = min 256 255 := by decide

theorem test_witness_runs_split : [8#8].head? ≠ some 7#8 ∧ ([] : ByteSeq).head? ≠ some 7#8 := by decide

theorem test_witness_run_length_encode_shape :
    (rleEncode [7#8, 7#8, 8#8])[2 * 0 + 1]? = some 2#8 ∧
    (rleEncode (List.replicate 256 9#8))[2 * 0]? = some 9#8 ∧ (rleEncode (List.replicate 256 9#8))[2 * 0 + 2]? = some 9#8 := by
  decide +kernel

theorem test_witness_run_length_encode_sizes :
    ∀ i p b, [1#8, 2#8][i]? = some p → [1#8, 2#8][i + 1]? = some b → p ≠ b
  | 0, _, _, rfl, rfl => by decide
  | 1, _, _, _, h => nomatch h
  | _ + 2, _, _, h, _ => nomatch h

theorem test_witness_canonical_streams :
    rleDecode [7#8, 2#8] = some [7#8, 7#8] ∧ [7#8, 2#8].length % 2 = 0 ∧ ([] : ByteSeq).length % 2 = 0 := by decide

/-- The states of a round trip: the compressed result of one operation loaded for the other. -/
theorem test_witness_global_round_trip :
    (loaded 0x03032#17 [7#8, 7#8]).state ≠ .busy ∧ cmdDir 0x03032#17 = 0#1 ∧
    (loaded 0x03032#17 [7#8, 7#8]).input = some [7#8, 7#8] ∧
    seen (step { loaded 0x03032#17 [7#8, 7#8] with script := [.execute] }) = some (.done, .none, 2, some [7#8, 2#8]) ∧
    (capped 0x13032#17 [7#8, 2#8] 2 0 2).state ≠ .busy ∧ cmdDir 0x13032#17 = 1#1 ∧
    cmdMethod 0x13032#17 = cmdMethod 0x03032#17 ∧ (capped 0x13032#17 [7#8, 2#8] 2 0 2).input = some [7#8, 2#8] ∧
    decode 0x13032#17 = .ok .decompressRleOnly ∧
    capacitiesSuffice (capped 0x13032#17 [7#8, 2#8] 2 0 2).params .decompressRleOnly [7#8, 2#8] [7#8, 7#8] = true := by decide

end Sys2Proof.Tests
end

/-! # The core's frame: CMD, ILEN and IBUF (R42)

Whatever the core is asked to do, a core step, `H_START` or a whole operation, keeps what `CoreKeeps` lists. -/

namespace Sys2Proof.Machine

theorem startCommand_keeps (i : Instr) (s : State) : CoreKeeps s (startCommand i s) := by
  unfold startCommand
  split
  · constructor <;> simp
  · split <;> constructor <;> simp

theorem hostStart_keeps (s : State) : CoreKeeps s (hostStart s) := by
  unfold hostStart
  split
  · exact .refl s
  · split
    · constructor <;> simp
    · exact startCommand_keeps _ s

theorem coreTurn_keeps {s t : State} (h : coreTurn s = .next t) : CoreKeeps s t := by
  unfold coreTurn at h
  split at h
  · split at h
    · cases h
    · exact coreStep_keeps h
  · cases h; exact .refl s

theorem operation_keeps {i : Instr} {s t : State} (h : operation i s = .next t) : CoreKeeps s t := by
  unfold operation at h
  split at h
  · cases h; exact .refl s
  · exact (startCommand_keeps i s).trans (runCore_keeps h)

theorem executeCmd_keeps {s t : State} (h : executeCmd s = .next t) : CoreKeeps s t := by
  unfold executeCmd at h
  split at h
  · cases h; exact hostStart_keeps s
  · rw [exec_eq_operation] at h
    exact operation_keeps h

theorem hostOp_start (s : State) : hostOp .start s = .next (hostStart s) := rfl

/-- Settles O41: the step is a core turn, a whole operation or `H_START`, and each keeps the host's registers. -/
theorem coreNeverWritesInputs : Obligations.CoreNeverWritesInputs := by
  intro s t h hscript
  obtain hs | ⟨e, rest, hs, he⟩ := hscript
  · rw [step, hs] at h
    have k := coreTurn_keeps h
    exact ⟨k.cmd, k.ilen, k.ibuf, k.params⟩
  · have k : CoreKeeps { s with script := rest } t := by
      rw [step, hs] at h
      obtain rfl | rfl | rfl := he
      · exact coreTurn_keeps h
      · exact executeCmd_keeps h
      · change hostOp .start _ = _ at h
        rw [hostOp_start] at h
        cases h
        exact hostStart_keeps _
    exact ⟨k.cmd, k.ilen, k.ibuf, k.params⟩

end Sys2Proof.Machine

/-! # Noninterference (R37): what a host operation returns

`hostReply` names the value a host operation notes, if it notes one. -/

namespace Sys2Proof.Machine

/-- What a host operation returns to the host (R190 to R193); writes and `H_START` return nothing. -/
def hostReply (s : State) : HostOp → Option Reply
  | .writeIbuf _ _ | .writeIlen _ | .writeCmd _ | .start => none
  | .readStatus => some (.status s.statusWord)
  | .readOlen => some (.olen (if s.state = .busy then s.freeLength else s.olen))
  | .readObuf a => some (.obuf a ((s.resultByte a).getD (Config.freeByte s.draws)))
  | .readCmd => some (.cmd s.cmd)
  | .readIlen => some (.ilen s.ilen)

theorem unlessBusy_replies {write : State → State} (hw : ∀ s, (write s).replies = s.replies) (s : State) :
    (unlessBusy write s).replies = s.replies := by
  unfold unlessBusy
  split
  · rfl
  · exact hw s

theorem hostWriteIbuf_replies (a : Nat) (b : Byte) (s : State) : (hostWriteIbuf a b s).replies = s.replies :=
  unlessBusy_replies (fun s => by split <;> simp) s

theorem hostReadOlen_replies (s : State) :
    (hostReadOlen s).replies = .olen (if s.state = .busy then s.freeLength else s.olen) :: s.replies := by
  unfold hostReadOlen
  split <;> rfl

theorem hostReadObuf_replies (a : Nat) (s : State) :
    (hostReadObuf a s).replies = .obuf a ((s.resultByte a).getD (Config.freeByte s.draws)) :: s.replies := by
  unfold hostReadObuf
  cases s.resultByte a <;> rfl

/-- A host operation adds to the replies what it returns, and nothing else. -/
theorem hostOp_replies {op : HostOp} {s t : State} (h : hostOp op s = .next t) :
    t.replies = (hostReply s op).toList ++ s.replies := by
  unfold hostOp at h
  split at h
  case isFalse => cases h
  case isTrue =>
    cases op <;> cases h
    case writeIbuf.refl a b _ => exact hostWriteIbuf_replies a b s
    case writeIlen.refl n _ => exact unlessBusy_replies (write := fun s => { s with ilen := n }) (fun _ => rfl) s
    case writeCmd.refl c _ => exact unlessBusy_replies (write := fun s => { s with cmd := c }) (fun _ => rfl) s
    case start.refl _ => exact (hostStart_keeps s).replies
    case readOlen.refl _ => exact hostReadOlen_replies s
    case readObuf.refl a _ => exact hostReadObuf_replies a s
    all_goals rfl

/-- The step of a host operation adds what it returns in the state it is taken in. -/
theorem step_host_replies {op : HostOp} {rest : List Event} {s t : State} (hs : s.script = .host op :: rest)
    (h : step s = .next t) : t.replies = (hostReply s op).toList ++ s.replies := by
  rw [step, hs] at h
  rw [hostOp_replies (op := op) h]
  cases op <;> rfl

/-- The hidden registers and MBUF (R37) have no part in what a host operation returns. -/
theorem hostReply_hidden (s u : State) (op : HostOp) :
    hostReply { s with stg := u.stg, slen := u.slen, mlen := u.mlen, rp := u.rp, wp := u.wp, prev := u.prev,
                       acc := u.acc, cur := u.cur, cnt := u.cnt, val := u.val, rem := u.rem, mbuf := u.mbuf } op =
      hostReply s op := by
  cases op <;> rfl

/-! # Noninterference (R37): the result of an operation

Two runs of one command from states that agree in ILEN, the input and the capacities go through states that agree in
all that is still to be read. -/

/-- Two states hold the same `n` bytes at the start of a buffer. -/
def SameBytes (sp : Space) (n : Nat) (s s' : State) : Prop :=
  ∃ x, (s.buffer sp).readSeq 0 n = some x ∧ (s'.buffer sp).readSeq 0 n = some x

theorem SameBytes.zero (sp : Space) (s s' : State) : SameBytes sp 0 s s' := ⟨[], rfl, rfl⟩

theorem SameBytes.memRead {sp : Space} {n a : Nat} {s s' : State} (h : SameBytes sp n s s') (ha : a < n) :
    ∃ b, s.memRead sp a = some b ∧ s'.memRead sp a = some b := by
  obtain ⟨x, hx, hx'⟩ := h
  have hlen := Memory.length_of_readSeq hx
  refine ⟨x[a], ?_, ?_⟩
  · rw [State.memRead, Memory.read_of_readSeq hx ha, List.getElem?_eq_getElem]
  · rw [State.memRead, Memory.read_of_readSeq hx' ha, List.getElem?_eq_getElem]

theorem SameBytes.memWrite_next {sp : Space} {n : Nat} {s s' : State} (h : SameBytes sp n s s') (v : Byte) :
    SameBytes sp (n + 1) (s.memWrite sp n v) (s'.memWrite sp n v) := by
  obtain ⟨x, hx, hx'⟩ := h
  refine ⟨x ++ [v], ?_, ?_⟩
  · rw [State.buffer_memWrite, if_pos rfl]
    exact Memory.readSeq_write_next v hx
  · rw [State.buffer_memWrite, if_pos rfl]
    exact Memory.readSeq_write_next v hx'

theorem SameBytes.memWrite_other {sp sp' : Space} {n : Nat} {s s' : State} (h : SameBytes sp n s s') (hne : sp ≠ sp')
    (a : Nat) (v : Byte) : SameBytes sp n (s.memWrite sp' a v) (s'.memWrite sp' a v) := by
  simpa only [SameBytes, State.buffer_memWrite, if_neg hne] using h

/-- Two states agree in the registers that an accepted `H_START` sets (R178, R182), and in the capacities. -/
structure SameRegs (s s' : State) : Prop where
  state : s'.state = s.state
  err : s'.err = s.err
  olen : s'.olen = s.olen
  stg : s'.stg = s.stg
  slen : s'.slen = s.slen
  rp : s'.rp = s.rp
  wp : s'.wp = s.wp
  prev : s'.prev = s.prev
  acc : s'.acc = s.acc
  cnt : s'.cnt = s.cnt
  rem : s'.rem = s.rem
  cap : ∀ sp, Params.cap s'.params sp = Params.cap s.params sp

/-- Two BUSY states in the same stage agree in all the stage can read: CUR while a run is open, VAL while copies are
pending (R35, R36), the source below SLEN and what the destination holds so far. -/
structure SameStage (i : Instr) (st : Stage) (s s' : State) : Prop where
  active : activeStage i s = some st
  busy : s.state = .busy
  olen_zero : s.olen = 0
  regs : SameRegs s s'
  cur : s.cnt ≠ 0#8 → s'.cur = s.cur
  val : 0 < s.rem.toNat → s'.val = s.val
  src : SameBytes st.src s.slen s s'
  dst : SameBytes st.dst s.wp s s'
  /-- An `RDEC` stage reads whole records (R157). -/
  pairs : st.kind = .rdec → s.slen % 2 = 0 ∧ s.rp % 2 = 0

/-- What R37 calls the result of an operation is the same in two states. -/
structure SameOutcome (s s' : State) : Prop where
  state : s.state = s'.state
  err : s.err = s'.err
  olen : s.olen = s'.olen
  result : s.result = s'.result

/-- Two runs of a command are in the same stage, or have both ended with the same result. -/
inductive InStep (i : Instr) (s s' : State) : Prop
  | running (st : Stage) (h : SameStage i st s s')
  | ended (hb : s.state ≠ .busy) (h : SameOutcome s s')

theorem SameOutcome.of_olen_zero {s s' : State} (hst : s.state = s'.state) (he : s.err = s'.err) (h : s.olen = 0)
    (h' : s'.olen = 0) : SameOutcome s s' where
  state := hst
  err := he
  olen := h.trans h'.symm
  result := by simp [State.result, h, h']

theorem InStep.outcome {i : Instr} {s s' : State} (h : InStep i s s') : SameOutcome s s' := by
  cases h with
  | running st h => exact .of_olen_zero h.regs.state.symm h.regs.err.symm h.olen_zero (h.regs.olen.trans h.olen_zero)
  | ended _ h => exact h

/-- An error ends both runs with an empty result (R205). -/
theorem InStep.raise (i : Instr) (e : Err) (s s' : State) : InStep i (raise e s) (raise e s') :=
  .ended (by simp) (.of_olen_zero rfl rfl rfl rfl)

theorem SameRegs.hasRoom {s s' : State} (h : SameRegs s s') (sp : Space) (a : Nat) :
    s'.hasRoom sp a = s.hasRoom sp a := by
  rw [State.hasRoom, State.hasRoom, h.cap]

/-! The writes of the stages, in terms of three small updates. -/

/-- The byte `v` is written at WP and WP moves on. -/
def State.push (sp : Space) (v : Byte) (s : State) : State := { s.memWrite sp s.wp v with wp := s.wp + 1 }

/-- RP moves on by `n`. -/
def State.consumed (n : Nat) (s : State) : State := { s with rp := s.rp + n }

/-- One copy has been counted off. -/
def State.countedOff (s : State) : State := { s with rem := s.rem - 1#8 }

theorem produce_eq (st : Stage) (o : Byte) (keep : State → State) (s : State) :
    produce st o keep s =
      if s.hasRoom st.dst s.wp then keep ((s.push st.dst o).consumed 1) else raise .capacityExceeded s := by
  obtain ⟨_, _, dst⟩ := st
  cases dst <;> rfl

theorem emitThen_eq (st : Stage) (andThen : State → State) (s : State) :
    emitThen st andThen s =
      if s.hasRoom st.dst (s.wp + 1) then andThen ((s.push st.dst s.cur).push st.dst s.cnt)
      else raise .capacityExceeded s := by
  obtain ⟨hr, e⟩ | ⟨hr, e⟩ := emitThen_cases st andThen s
  · rw [e, if_pos hr]
    obtain ⟨_, _, dst⟩ := st
    cases dst <;> rfl
  · rw [e, if_neg (by simp [hr])]

theorem expand_eq (st : Stage) (s : State) :
    expand st s = if s.hasRoom st.dst s.wp then (s.push st.dst s.val).countedOff else raise .capacityExceeded s := by
  obtain ⟨_, _, dst⟩ := st
  cases dst <;> rfl

/-! What the schedule says of the first stage, the last one, and the one between two stages (R180). -/

/-- The first stage reads IBUF, and decodes records only in a command with the parity check (R178). -/
theorem activeStage_beginOperation (i : Instr) (s : State) :
    ∃ st, activeStage i (beginOperation s) = some st ∧ st.src = .ibuf ∧
      (st.kind = .rdec → parityChecked i = true) := by
  cases i <;> exact ⟨_, rfl, rfl, by decide⟩

/-- The last stage writes OBUF. -/
theorem activeStage_last_dst {i : Instr} {st : Stage} {s : State} (ha : activeStage i s = some st)
    (hl : s.stg.val + 1 = (sched i).length) : st.dst = .obuf := by
  have hlast : (sched i).getLast? = some st := by
    rw [List.getLast?_eq_getElem?, ← hl]
    exact ha
  cases i <;> cases hlast <;> rfl

theorem sched_length_le_two (i : Instr) : (sched i).length ≤ 2 := by cases i <;> decide

/-- Stage 1 reads what stage 0 wrote, and decodes no records. -/
theorem activeStage_enterStageOne {i : Instr} {st : Stage} {s : State} (ha : activeStage i s = some st)
    (hl : s.stg.val + 1 ≠ (sched i).length) :
    ∃ st₁, activeStage i (enterStageOne s) = some st₁ ∧ st₁.src = st.dst ∧ st₁.kind ≠ .rdec := by
  have hlt : s.stg.val < (sched i).length := (List.getElem?_eq_some_iff.1 ha).1
  have hzero : s.stg.val = 0 := by
    have := sched_length_le_two i
    omega
  rw [activeStage, hzero] at ha
  rw [hzero] at hl
  cases i
  case compressDeltaRle => cases ha; exact ⟨_, rfl, rfl, by decide⟩
  case decompressDeltaRle => cases ha; exact ⟨_, rfl, rfl, by decide⟩
  all_goals exact absurd rfl hl

/-! Two runs in the same stage stay in step through each shared operation. -/

section
variable {i : Instr} {st : Stage} {s s' : State}

theorem SameRegs.push (h : SameRegs s s') (sp : Space) (v : Byte) : SameRegs (s.push sp v) (s'.push sp v) := by
  obtain ⟨⟩ := h
  constructor <;> simp [State.push, *]

theorem SameRegs.enterStageOne (h : SameRegs s s') : SameRegs (enterStageOne s) (enterStageOne s') := by
  obtain ⟨⟩ := h
  constructor <;> simp [*]

theorem SameStage.push (h : SameStage i st s s') (v : Byte) : SameStage i st (s.push st.dst v) (s'.push st.dst v) where
  active := (activeStage_congr (by simp [State.push])).trans h.active
  busy := by simp [State.push, h.busy]
  olen_zero := by simp [State.push, h.olen_zero]
  regs := h.regs.push st.dst v
  cur := by simpa [State.push] using h.cur
  val := by simpa [State.push] using h.val
  src := by
    have hsrc := h.src.memWrite_other (activeStage_spaces h.active).2.1 s.wp v
    simpa [SameBytes, State.push, State.buffer, h.regs.wp] using hsrc
  dst := by
    have hdst := h.dst.memWrite_next v
    simpa [SameBytes, State.push, State.buffer, h.regs.wp] using hdst
  pairs := by simpa [State.push] using h.pairs

theorem SameStage.consumed (h : SameStage i st s s') (n : Nat) (hn : st.kind = .rdec → n % 2 = 0) :
    SameStage i st (s.consumed n) (s'.consumed n) :=
  { h with
    regs := { h.regs with rp := congrArg (· + n) h.regs.rp }
    pairs := fun hk => by
      have := h.pairs hk
      have := hn hk
      simp only [State.consumed]
      omega }

theorem SameStage.withPrev (h : SameStage i st s s') (b : Byte) : SameStage i st (s.withPrev b) (s'.withPrev b) :=
  { h with regs := { h.regs with prev := rfl } }

theorem SameStage.withAcc (h : SameStage i st s s') (o : Byte) : SameStage i st (s.withAcc o) (s'.withAcc o) :=
  { h with regs := { h.regs with acc := rfl } }

theorem SameStage.openRun (h : SameStage i st s s') (hk : st.kind ≠ .rdec) (b : Byte) :
    SameStage i st (s.openRun b) (s'.openRun b) :=
  have hc := h.consumed 1 fun e => absurd e hk
  { hc with regs := { hc.regs with cnt := rfl }, cur := fun _ => rfl }

theorem SameStage.growRun (h : SameStage i st s s') (hk : st.kind ≠ .rdec) (hrun : s.cnt ≠ 0#8) :
    SameStage i st s.growRun s'.growRun :=
  have hc := h.consumed 1 fun e => absurd e hk
  { hc with regs := { hc.regs with cnt := congrArg (· + 1#8) h.regs.cnt }, cur := fun _ => h.cur hrun }

theorem SameStage.closeRun (h : SameStage i st s s') : SameStage i st s.closeRun s'.closeRun :=
  { h with regs := { h.regs with cnt := rfl }, cur := fun hc => absurd rfl hc }

theorem SameStage.takeRecord (h : SameStage i st s s') (v n : Byte) :
    SameStage i st (s.takeRecord v n) (s'.takeRecord v n) :=
  have hc := h.consumed 2 fun _ => rfl
  { hc with regs := { hc.regs with rem := rfl }, val := fun _ => rfl }

theorem SameStage.countedOff (h : SameStage i st s s') (hrem : 0 < s.rem.toNat) :
    SameStage i st s.countedOff s'.countedOff :=
  { h with regs := { h.regs with rem := congrArg (· - 1#8) h.regs.rem }, val := fun _ => h.val hrem }

/-- Both runs go on where the destination has room, or both raise (R58). -/
theorem SameStage.ifRoom (h : SameStage i st s s') (n : Nat) {u u' : State} (hu : SameStage i st u u') :
    InStep i (if s.hasRoom st.dst (s.wp + n) then u else raise .capacityExceeded s)
      (if s'.hasRoom st.dst (s'.wp + n) then u' else raise .capacityExceeded s') := by
  rw [h.regs.wp, h.regs.hasRoom]
  split
  · exact .running st hu
  · exact .raise i _ s s'

theorem SameStage.produce (h : SameStage i st s s') (hk : st.kind ≠ .rdec) (o : Byte) {keep : State → State}
    (hkeep : ∀ {u u'}, SameStage i st u u' → SameStage i st (keep u) (keep u')) :
    InStep i (produce st o keep s) (produce st o keep s') := by
  rw [produce_eq, produce_eq]
  exact h.ifRoom 0 (hkeep ((h.push o).consumed 1 fun e => absurd e hk))

theorem SameStage.emitThen (h : SameStage i st s s') (hrun : s.cnt ≠ 0#8) {andThen : State → State}
    (hthen : ∀ {u u'}, SameStage i st u u' → SameStage i st (andThen u) (andThen u')) :
    InStep i (emitThen st andThen s) (emitThen st andThen s') := by
  rw [emitThen_eq, emitThen_eq, h.cur hrun, h.regs.cnt]
  exact h.ifRoom 1 (hthen ((h.push s.cur).push s.cnt))

theorem SameStage.expand (h : SameStage i st s s') (hrem : 0 < s.rem.toNat) :
    InStep i (expand st s) (expand st s') := by
  rw [expand_eq, expand_eq, h.val hrem]
  exact h.ifRoom 0 ((h.push s.val).countedOff (by simpa [State.push] using hrem))

/-- Both runs end with the result written, or both enter stage 1 (R183). -/
theorem SameStage.stageDone (h : SameStage i st s s') : InStep i (stageDone i s) (stageDone i s') := by
  unfold Machine.stageDone
  rw [h.regs.stg]
  split
  · rename_i hl
    obtain ⟨y, hy, hy'⟩ := h.dst
    rw [activeStage_last_dst h.active hl] at hy hy'
    rw [← h.regs.wp] at hy'
    exact .ended (by simp)
      { state := rfl, err := h.regs.err.symm, olen := h.regs.wp.symm, result := hy.trans hy'.symm }
  · rename_i hl
    obtain ⟨st₁, ha, hsrc, hk⟩ := activeStage_enterStageOne h.active hl
    exact .running st₁
      { active := ha
        busy := h.busy
        olen_zero := h.olen_zero
        regs := h.regs.enterStageOne
        cur := fun hc => absurd rfl hc
        val := fun hr => absurd hr (by simp)
        src := hsrc ▸ h.dst
        dst := .zero _ _ _
        pairs := fun e => absurd e hk }

/-! One core step of both runs. -/

/-- Both answers are next states, and these are in step. -/
inductive AnswersInStep (i : Instr) : Answer → Answer → Prop
  | next {t t' : State} (h : InStep i t t') : AnswersInStep i (.next t) (.next t')

theorem SameStage.sourceLeft (h : SameStage i st s s') : s'.sourceLeft = s.sourceLeft := by
  rw [State.sourceLeft, State.sourceLeft, h.regs.rp, h.regs.slen]

theorem SameStage.noOpenRun (h : SameStage i st s s') : s'.noOpenRun = s.noOpenRun := by
  rw [State.noOpenRun, State.noOpenRun, h.regs.cnt]

theorem SameStage.copiesPending (h : SameStage i st s s') : s'.copiesPending = s.copiesPending := by
  rw [State.copiesPending, State.copiesPending, h.regs.rem]

/-- Both runs read the same byte ahead of RP, and neither faults. -/
theorem SameStage.memRead_src (h : SameStage i st s s') {k : Nat} (hk : s.rp + k < s.slen) :
    ∃ b, s.memRead st.src (s.rp + k) = some b ∧ s'.memRead st.src (s'.rp + k) = some b := by
  rw [h.regs.rp]
  exact h.src.memRead hk

theorem SameStage.memRead_rp (h : SameStage i st s s') (hl : s.sourceLeft = true) :
    ∃ b, s.memRead st.src s.rp = some b ∧ s'.memRead st.src s'.rp = some b :=
  h.memRead_src (k := 0) (of_decide_eq_true hl)

theorem SameStage.dencStep (h : SameStage i st s s') (hk : st.kind ≠ .rdec) :
    AnswersInStep i (dencStep i st s) (dencStep i st s') := by
  unfold Machine.dencStep
  rw [h.sourceLeft, h.regs.prev]
  split
  · rename_i hl
    obtain ⟨b, hb, hb'⟩ := h.memRead_rp hl
    rw [hb, hb']
    exact .next (h.produce hk _ (·.withPrev b))
  · exact .next h.stageDone

theorem SameStage.ddecStep (h : SameStage i st s s') (hk : st.kind ≠ .rdec) :
    AnswersInStep i (ddecStep i st s) (ddecStep i st s') := by
  unfold Machine.ddecStep
  rw [h.sourceLeft, h.regs.acc]
  split
  · rename_i hl
    obtain ⟨b, hb, hb'⟩ := h.memRead_rp hl
    rw [hb, hb']
    exact .next (h.produce hk _ (·.withAcc (addMod b s.acc)))
  · exact .next h.stageDone

theorem SameStage.rencStep (h : SameStage i st s s') (hk : st.kind ≠ .rdec) :
    AnswersInStep i (rencStep i st s) (rencStep i st s') := by
  unfold Machine.rencStep
  rw [h.sourceLeft, h.noOpenRun]
  by_cases hl : s.sourceLeft = true
  · obtain ⟨b, hb, hb'⟩ := h.memRead_rp hl
    rw [if_pos hl, if_pos hl, hb, hb']
    by_cases hc : s.cnt = 0#8
    · simp only [State.noOpenRun, hc, decide_true, if_true]
      exact .next (.running st (h.openRun hk b))
    · simp only [State.noOpenRun, hc, decide_false, Bool.false_eq_true, if_false, h.cur hc, h.regs.cnt]
      split
      · exact .next (.running st (h.growRun hk hc))
      · exact .next (h.emitThen hc (·.openRun hk b))
  · rw [if_neg hl, if_neg hl]
    split
    · exact .next h.stageDone
    · rename_i hc
      exact .next (h.emitThen (by simpa [State.noOpenRun] using hc) (·.closeRun))

theorem SameStage.rdecStep (h : SameStage i st s s') (hk : st.kind = .rdec) :
    AnswersInStep i (rdecStep i st s) (rdecStep i st s') := by
  unfold Machine.rdecStep
  rw [h.copiesPending, h.sourceLeft]
  split
  · rename_i hc
    exact .next (h.expand (of_decide_eq_true hc))
  · split
    · rename_i hl
      have hlt : s.rp < s.slen := of_decide_eq_true hl
      have hpairs := h.pairs hk
      obtain ⟨v, hv, hv'⟩ := h.memRead_rp hl
      obtain ⟨n, hn, hn'⟩ := h.memRead_src (k := 1) (by omega)
      rw [hv, hv', hn, hn']
      exact .next (.running st (h.takeRecord v n))
    · exact .next h.stageDone

theorem SameStage.coreStep (h : SameStage i st s s') : AnswersInStep i (coreStep i s) (coreStep i s') := by
  rw [Machine.coreStep, Machine.coreStep, activeStage_congr h.regs.stg, h.active]
  simp only [stageStep]
  cases hk : st.kind
  case denc => exact h.dencStep (by simp [hk])
  case ddec => exact h.ddecStep (by simp [hk])
  case renc => exact h.rencStep (by simp [hk])
  case rdec => exact h.rdecStep hk

end

/-! Whole operations. -/

/-- Runs of equally many core steps end in step, without a fault. -/
theorem InStep.runCore {i : Instr} (n : Nat) {s s' : State} (h : InStep i s s') :
    AnswersInStep i (runCore i n s) (runCore i n s') := by
  induction n generalizing s s' with
  | zero => exact .next h
  | succ n ih =>
    cases h with
    | ended hb ho =>
      rw [runCore_not_busy _ hb, runCore_not_busy _ (ho.state ▸ hb)]
      exact .next (.ended hb ho)
    | running st h =>
      have hstep := h.coreStep
      rw [Machine.runCore, Machine.runCore, if_pos h.busy, if_pos (h.regs.state.trans h.busy)]
      revert hstep
      generalize coreStep i s = a, coreStep i s' = a'
      rintro ⟨h'⟩
      exact ih h'

/-- Two states agree in all that R37 lets the result of an operation depend on. -/
structure SameOperands (s s' : State) : Prop where
  cmd : s'.cmd = s.cmd
  ilen : s'.ilen = s.ilen
  cap : ∀ sp, Params.cap s'.params sp = Params.cap s.params sp
  input : SameBytes .ibuf s.ilen s s'

section
variable {s s' : State}

theorem SameOperands.regs_beginOperation (h : SameOperands s s') :
    SameRegs (beginOperation s) (beginOperation s') := by
  constructor <;> simp [h.ilen, h.cap]

/-- `H_START` admits both or raises the same error in both (R178). -/
theorem SameOperands.startCommand (h : SameOperands s s') (i : Instr) :
    InStep i (startCommand i s) (startCommand i s') := by
  have hicap : s'.params.icap = s.params.icap := h.cap .ibuf
  unfold Machine.startCommand
  rw [h.ilen, hicap]
  split
  · exact .raise i _ s s'
  · rename_i hparity
    split
    · obtain ⟨st, ha, hsrc, hk⟩ := activeStage_beginOperation i s
      exact .running st
        { active := ha
          busy := rfl
          olen_zero := rfl
          regs := h.regs_beginOperation
          cur := fun hc => absurd rfl hc
          val := fun hr => absurd hr (by simp)
          src := hsrc ▸ h.input
          dst := .zero _ _ _
          pairs := fun e => by simpa [hk e] using hparity }
    · exact .raise i _ s s'

/-- A whole operation faults from neither state, and gives the same result from both (R37). -/
theorem SameOperands.executeCmd (h : SameOperands s s') (hb : s.state ≠ .busy) (hb' : s'.state ≠ .busy) :
    ∃ t t', executeCmd s = .next t ∧ executeCmd s' = .next t' ∧ SameOutcome t t' := by
  unfold Machine.executeCmd
  rw [h.cmd]
  cases hd : decode s.cmd with
  | error e =>
    refine ⟨_, _, rfl, rfl, ?_⟩
    rw [hostStart, hostStart, if_neg hb, if_neg hb', h.cmd, hd]
    exact .of_olen_zero rfl rfl rfl rfl
  | ok i =>
    have hrun := (h.startCommand i).runCore (stepBound s.ilen)
    simp only [exec_eq_operation, operation, if_neg hb, if_neg hb', h.ilen]
    revert hrun
    generalize runCore i _ (Machine.startCommand i s) = a, runCore i _ (Machine.startCommand i s') = a'
    rintro ⟨ht⟩
    exact ⟨_, _, rfl, rfl, ht.outcome⟩

end

/-- Settles O48: two runs of a command stay in step, and what a host operation returns reads no hidden register. -/
theorem resultIndependentOfHistory : Obligations.ResultIndependentOfHistory := by
  refine ⟨?_, ?_⟩
  · intro s s' x hb hb' hcmd hilen hicap hmcap hocap hin hin'
    have hops : SameOperands { s with script := [] } { s' with script := [] } :=
      { cmd := hcmd.symm
        ilen := hilen.symm
        cap := fun | .ibuf => hicap.symm | .mbuf => hmcap.symm | .obuf => hocap.symm
        input := ⟨x, hin, by rw [State.input, ← hilen] at hin'; exact hin'⟩ }
    obtain ⟨t, t', ht, ht', ho⟩ := hops.executeCmd hb hb'
    exact ⟨t, t', ht, ht', ho.state, ho.err, ho.olen, ho.result⟩
  · intro s s' t t' op rest hs hs' ht ht'
    have hscript : s'.script = .host op :: rest := by rw [hs']; exact hs
    rw [step_host_replies hs ht, step_host_replies hscript ht', hs']
    exact congrArg (·.toList ++ s.replies) (hostReply_hidden s s' op).symm

end Sys2Proof.Machine

/-! # The lock while BUSY (R64)

A host operation answered while BUSY leaves the machine as it is: it notes what it returns, and a read of OLEN or OBUF
draws the free value it returns. -/

namespace Sys2Proof.Machine

/-- How many free values a host operation draws while BUSY (R191, R192). -/
def lockedDraws : HostOp → Nat
  | .readOlen | .readObuf _ => 1
  | .writeIbuf _ _ | .writeIlen _ | .writeCmd _ | .start | .readStatus | .readCmd | .readIlen => 0

section
variable {s : State} (hb : s.state = .busy)
include hb

theorem unlessBusy_of_busy (write : State → State) : unlessBusy write s = s := if_pos hb

theorem hostStart_of_busy : hostStart s = s := if_pos hb

theorem hostReadOlen_of_busy : hostReadOlen s = (s.answer (.olen s.freeLength)).drawn := if_pos hb

theorem resultByte_of_busy (a : Nat) : s.resultByte a = none := if_neg (by simp [hb])

theorem hostReadObuf_of_busy (a : Nat) :
    hostReadObuf a s = (s.answer (.obuf a (Config.freeByte s.draws))).drawn := by
  rw [hostReadObuf, resultByte_of_busy hb]

/-- While BUSY a host operation changes nothing but the model's records of what it returned and drew. -/
theorem hostOp_of_busy {op : HostOp} {t : State} (h : hostOp op s = .next t) :
    t = { s with replies := (hostReply s op).toList ++ s.replies, draws := s.draws + lockedDraws op } := by
  unfold hostOp at h
  split at h
  case isFalse => cases h
  case isTrue =>
    cases op <;> cases h
    case writeIbuf.refl => exact unlessBusy_of_busy hb _
    case writeIlen.refl => exact unlessBusy_of_busy hb _
    case writeCmd.refl => exact unlessBusy_of_busy hb _
    case start.refl => exact hostStart_of_busy hb
    case readOlen.refl => rw [hostReadOlen_of_busy hb, hostReply, if_pos hb]; rfl
    case readObuf.refl a _ => rw [hostReadObuf_of_busy hb, hostReply, resultByte_of_busy hb]; rfl
    all_goals rfl

end

/-- Settles O15: the step of a host operation while BUSY only notes what the operation returns. -/
theorem hostLockedOutWhileBusy : Obligations.HostLockedOutWhileBusy := by
  intro s t op rest hs hb h
  have hr := step_host_replies hs h
  rw [step, hs] at h
  have ht := hostOp_of_busy (s := { s with script := rest }) (op := op) hb h
  have hd : t.draws = s.draws + lockedDraws op := congrArg State.draws ht
  refine ⟨by rw [ht], ?_⟩
  cases op
  case writeIbuf | writeIlen | writeCmd | start => exact ⟨hr, hd⟩
  case readStatus | readCmd | readIlen => exact hr
  case readOlen | readObuf => exact ⟨_, hr⟩

end Sys2Proof.Machine

/-! # The STATUS word (R24, R86)

The word is the number `STATE + 4 ERR`; that ERR is NONE exactly outside ERROR (R26) leaves the six words R86 lists. -/

namespace Sys2Proof.Machine

theorem statusWord_toNat (s : State) : s.statusWord.toNat = s.state.code.toNat + 4 * s.err.code.toNat := by
  have hstate : s.state.code.toNat < 2 ^ 2 := s.state.code.isLt
  have hfields : s.statusWord.toNat = s.err.code.toNat <<< 2 ||| s.state.code.toNat := by
    rw [State.statusWord, BitVec.toNat_append, BitVec.toNat_append, BitVec.toNat_ofNat, Nat.zero_mod, Nat.zero_shiftLeft,
      Nat.zero_or]
  rw [hfields, ← Nat.shiftLeft_add_eq_or_of_lt hstate, Nat.shiftLeft_eq]
  omega

/-- The words of R86 without an error: IDLE, BUSY and DONE. -/
theorem statusWord_mem_of_no_error {s : State} (herr : s.err = .none) (hstate : s.state ≠ .error) :
    s.statusWord ∈ [0x00#8, 0x01#8, 0x02#8] := by
  rw [State.statusWord, herr]
  cases hs : s.state
  case error => exact absurd hs hstate
  all_goals decide

/-- The words of R86 in ERROR, one for each cause. -/
theorem statusWord_mem_of_error {s : State} (hstate : s.state = .error) (herr : s.err ≠ .none) :
    s.statusWord ∈ [0x07#8, 0x0B#8, 0x0F#8] := by
  rw [State.statusWord, hstate]
  cases he : s.err
  case none => exact absurd he herr
  all_goals decide

/-- The reachable words of R86, from the part of the invariant that ties ERR to STATE (R26). -/
theorem statusWord_mem_of_statusOk {s : State} (h : s.StatusOk) :
    s.statusWord ∈ [0x00#8, 0x01#8, 0x02#8] ++ [0x07#8, 0x0B#8, 0x0F#8] := by
  obtain ⟨herr, _, _⟩ := h
  by_cases hstate : s.state = .error
  · exact List.mem_append_right _ (statusWord_mem_of_error hstate fun he => herr.mp he hstate)
  · exact List.mem_append_left _ (statusWord_mem_of_no_error (herr.mpr hstate) hstate)

/-- Settles O3: the number of the word is `STATE + 4 ERR`, and the invariant leaves the six words of `StatusOk`. -/
theorem statusWordFormat : Obligations.StatusWordFormat := by
  intro s
  constructor
  · rw [statusWord_toNat]
    congr 2
    · cases s.state <;> rfl
    · cases s.err <;> rfl
  · rintro ⟨_, _, hstatus, _⟩
    exact statusWord_mem_of_statusOk hstatus

end Sys2Proof.Machine

/-! # The delta transforms (R100, R115)

`deltaEncode` and `deltaDecode` are the differences and the running sums after the byte 0, so that the first byte needs no
special case; each law is an induction over the bytes for every byte before them. -/

namespace Sys2Proof.Machine

/-- The value of a difference, the borrow discarded (R102). -/
theorem subMod_toNat (a b : Byte) : (subMod a b).toNat = (((a.toNat : Int) - (b.toNat : Int)) % 256).toNat := by
  rw [subMod, BitVec.toNat_ofInt]
  rfl

/-- The value of a sum, the carry discarded (R117). -/
theorem addMod_toNat (a b : Byte) : (addMod a b).toNat = (a.toNat + b.toNat) % 256 := by
  rw [addMod, BitVec.toNat_ofNat]

@[simp] theorem subMod_zero (b : Byte) : subMod b 0#8 = b := by simp [subMod_eq_sub]

@[simp] theorem addMod_zero (b : Byte) : addMod b 0#8 = b := by simp [addMod_eq_add]

@[simp] theorem subMod_self (b : Byte) : subMod b b = 0#8 := by simp [subMod_eq_sub]

@[simp] theorem addMod_subMod_cancel (b p : Byte) : addMod (subMod b p) p = b := by simp [subMod_eq_sub, addMod_eq_add]

@[simp] theorem subMod_addMod_cancel (b o : Byte) : subMod (addMod b o) o = b := by simp [subMod_eq_sub, addMod_eq_add]

theorem deltaEncode_eq_deltaDiffs (x : ByteSeq) : deltaEncode x = deltaDiffs 0#8 x := by
  cases x <;> simp [deltaEncode]

theorem deltaDecode_eq_deltaSums (y : ByteSeq) : deltaDecode y = deltaSums 0#8 y := by
  cases y <;> simp [deltaDecode]

@[simp] theorem length_deltaDiffs (p : Byte) (x : ByteSeq) : (deltaDiffs p x).length = x.length := by
  induction x generalizing p with
  | nil => rfl
  | cons b x ih => simp [ih]

@[simp] theorem length_deltaSums (o : Byte) (y : ByteSeq) : (deltaSums o y).length = y.length := by
  induction y generalizing o with
  | nil => rfl
  | cons b y ih => simp [ih]

@[simp] theorem length_deltaEncode (x : ByteSeq) : (deltaEncode x).length = x.length := by
  rw [deltaEncode_eq_deltaDiffs, length_deltaDiffs]

@[simp] theorem length_deltaDecode (y : ByteSeq) : (deltaDecode y).length = y.length := by
  rw [deltaDecode_eq_deltaSums, length_deltaSums]

/-- The subtrahend of the byte at `k` is the input byte before it, `p` at the front (R100). -/
theorem getElem?_deltaDiffs {p q b : Byte} {x : ByteSeq} {k : Nat} (hq : (p :: x)[k]? = some q) (hb : x[k]? = some b) :
    (deltaDiffs p x)[k]? = some (subMod b q) := by
  induction x generalizing p k with
  | nil => simp at hb
  | cons c x ih =>
    cases k with
    | zero =>
      cases hq
      cases hb
      rfl
    | succ k => exact ih hq hb

theorem getElem?_deltaEncode {q b : Byte} {x : ByteSeq} {k : Nat} (hq : (0#8 :: x)[k]? = some q) (hb : x[k]? = some b) :
    (deltaEncode x)[k]? = some (subMod b q) := by
  rw [deltaEncode_eq_deltaDiffs]
  exact getElem?_deltaDiffs hq hb

theorem deltaSums_deltaDiffs (p : Byte) (x : ByteSeq) : deltaSums p (deltaDiffs p x) = x := by
  induction x generalizing p with
  | nil => rfl
  | cons b x ih => simp [ih]

theorem deltaDiffs_deltaSums (o : Byte) (y : ByteSeq) : deltaDiffs o (deltaSums o y) = y := by
  induction y generalizing o with
  | nil => rfl
  | cons b y ih => simp [ih]

theorem deltaDiffs_replicate (b : Byte) (n : Nat) : deltaDiffs b (List.replicate n b) = List.replicate n 0#8 := by
  induction n with
  | zero => rfl
  | succ n ih => simp [List.replicate_succ, ih]

theorem deltaDiffs_take (p : Byte) (x : ByteSeq) (k : Nat) : deltaDiffs p (x.take k) = (deltaDiffs p x).take k := by
  induction x generalizing p k with
  | nil => simp
  | cons b x ih => cases k <;> simp [ih]

theorem deltaSums_take (o : Byte) (y : ByteSeq) (k : Nat) : deltaSums o (y.take k) = (deltaSums o y).take k := by
  induction y generalizing o k with
  | nil => simp
  | cons b y ih => cases k <;> simp [ih]

/-- Settles O50: both are the 8-bit operations, whose values wrap at 256. -/
theorem byteArithmeticWraps : Obligations.ByteArithmeticWraps := by
  intro a b
  have ha := a.isLt
  have hb := b.isLt
  have hsub := subMod_toNat a b
  have hadd := addMod_toNat a b
  exact ⟨by omega, by omega, by omega, by omega, subMod_eq_sub a b, addMod_eq_add a b⟩

/-- Settles O51: from index 1 on, the byte before is an input byte and not the 0 in front. -/
theorem deltaEncodeByIndex : Obligations.DeltaEncodeByIndex := by
  intro x
  refine ⟨length_deltaEncode x, by cases x <;> rfl, fun i p b hi hp hb => ?_⟩
  obtain ⟨j, rfl⟩ := Nat.exists_eq_add_of_le' hi
  exact ⟨subMod b p, getElem?_deltaEncode hp hb, subMod_toNat b p⟩

/-- Settles O53: the laws of the differences and the running sums, from the byte 0 in front. -/
theorem deltaLaws : Obligations.DeltaLaws := by
  refine ⟨fun x => ⟨length_deltaEncode x, length_deltaDecode x⟩, fun x => ?_, fun y => ?_, fun b n => ?_, fun x k => ?_,
    fun y k => ?_, by decide⟩
  · rw [deltaDecode_eq_deltaSums, deltaEncode_eq_deltaDiffs, deltaSums_deltaDiffs]
  · rw [deltaDecode_eq_deltaSums, deltaEncode_eq_deltaDiffs, deltaDiffs_deltaSums]
  · exact congrArg (b :: ·) (deltaDiffs_replicate b n)
  · rw [deltaEncode_eq_deltaDiffs, deltaEncode_eq_deltaDiffs, deltaDiffs_take]
  · rw [deltaDecode_eq_deltaSums, deltaDecode_eq_deltaSums, deltaSums_take]

end Sys2Proof.Machine

/-! # The core's turn in an active stage (R181)

With nothing left in the script, a BUSY machine takes one step of its active stage. -/

namespace Sys2Proof.Machine

section
variable {i : Instr} {st : Stage} {s : State}

theorem step_eq_stageStep (hs : s.script = []) (hb : s.state = .busy) (hd : decode s.cmd = .ok i)
    (ha : activeStage i s = some st) : step s = stageStep i st s := by
  rw [step, hs]
  simp only [coreTurn, if_pos hb, hd, coreStep, ha]

/-- What the invariant says of the active stage's own registers. -/
theorem kindOk_of_inv (h : s.Inv) (hb : s.state = .busy) (hd : decode s.cmd = .ok i)
    (ha : activeStage i s = some st) : kindOk st.kind s = true := by
  obtain ⟨_, _, _, hbusy⟩ := h
  have hok := hbusy hb
  simp only [busyOk, hd, ha, Bool.and_eq_true] at hok
  exact hok.2

theorem stageDone_eq_afterStageDone : stageDone i s = afterStageDone i s := rfl

theorem raise_eq_afterCapacityError : raise .capacityExceeded s = afterCapacityError s := rfl

/-- A `DENC` step with source left consumes one byte and produces its difference from PREV (R104). -/
theorem dencStep_of_byte {b : Byte} (hl : s.rp < s.slen) (hb : s.memRead st.src s.rp = some b) :
    dencStep i st s = .next (produce st (subMod b s.prev) (State.withPrev b) s) := by
  simp only [dencStep, State.sourceLeft, hl, decide_true, if_true, hb]

/-- A `DENC` step with no source left is `StageDone` (R104). -/
theorem dencStep_of_end (hl : ¬s.rp < s.slen) : dencStep i st s = .next (afterStageDone i s) := by
  simp only [dencStep, State.sourceLeft, hl, decide_false, Bool.false_eq_true, if_false]
  rw [stageDone_eq_afterStageDone]

theorem produce_of_room {o : Byte} {keep : State → State} (h : s.hasRoom st.dst s.wp = true) :
    produce st o keep s = keep ((s.push st.dst o).consumed 1) := by
  rw [produce_eq, if_pos h]

theorem produce_of_full {o : Byte} {keep : State → State} (h : s.hasRoom st.dst s.wp = false) :
    produce st o keep s = afterCapacityError s := by
  rw [produce_eq, if_neg (by simp [h]), raise_eq_afterCapacityError]

end

theorem State.memRead_push (s : State) (sp : Space) (v : Byte) : (s.push sp v).memRead sp s.wp = some v :=
  s.memRead_memWrite_same sp s.wp v

theorem State.writesOnly_push (s : State) (sp : Space) (v : Byte) : WritesOnly s (s.push sp v) sp s.wp 1 :=
  fun _ _ h => s.memRead_memWrite_other v fun ⟨hsp, ha⟩ => h ⟨hsp, by omega⟩

/-- Settles O16: the step consumes a byte and produces one, raises, or is `StageDone`. -/
theorem deltaEncodeStep : Obligations.DeltaEncodeStep := by
  intro i src dst s hs hb hd ha
  have hstep : step s = dencStep i ⟨.denc, src, dst⟩ s := step_eq_stageStep hs hb hd ha
  refine ⟨fun b hl hsrc hroom => ?_, fun b hl hsrc hfull => ?_, fun hl => ?_, fun hinv => ?_⟩
  · refine ⟨((s.push dst (subMod b s.prev)).consumed 1).withPrev b, subMod b s.prev, ?_, subMod_toNat b s.prev,
      s.memRead_push dst _, s.writesOnly_push dst _, ?_⟩
    · rw [hstep, dencStep_of_byte hl hsrc, produce_of_room (st := ⟨.denc, src, dst⟩) hroom]
    · cases dst <;> rfl
  · rw [hstep, dencStep_of_byte hl hsrc, produce_of_full (st := ⟨.denc, src, dst⟩) hfull]
  · rw [hstep, dencStep_of_end hl]
  · exact of_decide_eq_true (kindOk_of_inv hinv hb hd ha)

end Sys2Proof.Machine

/-! # A `DENC` stage (R105)

`Transduced` is the part of the loop invariant that the two delta stages share: byte by byte, `out` is made of `x`. -/

namespace Sys2Proof.Machine

/-- A run of steps and one more. -/
theorem runSteps_snoc {k : Nat} {s t u : State} (h : runSteps k s = .next t) (hs : step t = .next u) :
    runSteps (k + 1) s = .next u := by
  induction k generalizing s with
  | zero =>
    cases h
    exact runSteps_next 0 hs
  | succ k ih =>
    cases hstep : step s with
    | next s' =>
      rw [runSteps_next _ hstep] at h ⊢
      exact ih h
    | fault f => rw [runSteps_fault _ hstep] at h; cases h
    | refused r => rw [runSteps_refused _ hstep] at h; cases h

/-- What holds at the start and is carried over each of `n` steps holds after them. -/
theorem runSteps_induction {P : Nat → State → Prop} {n : Nat} {s : State} (hzero : P 0 s)
    (hstep : ∀ k t, k < n → P k t → ∃ u, step t = .next u ∧ P (k + 1) u) : ∃ t, runSteps n s = .next t ∧ P n t := by
  induction n with
  | zero => exact ⟨s, rfl, hzero⟩
  | succ n ih =>
    obtain ⟨t, ht, hP⟩ := ih fun k t hk => hstep k t (by omega)
    obtain ⟨u, hu, hPu⟩ := hstep n t (Nat.lt_succ_self n) hP
    exact ⟨u, runSteps_snoc ht hu, hPu⟩

theorem indexFits_of_lengthWithin {a n : Nat} {c : Option Nat} (h : lengthWithin n c = true) (ha : a < n) :
    indexFits a c = true := by
  cases c with
  | none => rfl
  | some c => exact decide_eq_true (Nat.lt_of_lt_of_le ha (of_decide_eq_true h))

/-- `k` bytes of the source `x` have been consumed and the first `k` bytes of `out` produced. -/
structure Transduced (i : Instr) (st : Stage) (p : Params) (x out : ByteSeq) (k : Nat) (t : State) : Prop where
  script : t.script = []
  busy : t.state = .busy
  decoded : decode t.cmd = .ok i
  active : activeStage i t = some st
  params : t.params = p
  source : (t.buffer st.src).readSeq 0 x.length = some x
  slen : t.slen = x.length
  rp : t.rp = k
  wp : t.wp = k
  produced : (t.buffer st.dst).readSeq 0 k = some (out.take k)

section
variable {i : Instr} {st : Stage} {p : Params} {s t : State} {x out : ByteSeq} {k : Nat}

theorem StageStart.transduced (h : StageStart i st s) (hx : (s.buffer st.src).readSeq 0 s.slen = some x) :
    Transduced i st s.params x out 0 s := by
  obtain ⟨hscript, hbusy, hdec, hact, hrp, hwp, _⟩ := h
  have hlen := Memory.length_of_readSeq hx
  exact ⟨hscript, hbusy, hdec, hact, rfl, hlen ▸ hx, hlen.symm, hrp, hwp, rfl⟩

theorem Transduced.step_eq (h : Transduced i st p x out k t) : step t = stageStep i st t :=
  step_eq_stageStep h.script h.busy h.decoded h.active

theorem Transduced.rp_lt (h : Transduced i st p x out k t) (hk : k < x.length) : t.rp < t.slen := by
  rw [h.rp, h.slen]
  exact hk

theorem Transduced.memRead_src (h : Transduced i st p x out k t) (hk : k < x.length) :
    t.memRead st.src t.rp = x[k]? := by
  rw [h.rp]
  exact Memory.read_of_readSeq h.source hk

theorem Transduced.hasRoom (h : Transduced i st p x out k t) :
    t.hasRoom st.dst t.wp = indexFits k (Params.cap p st.dst) := by
  rw [State.hasRoom, h.wp, h.params]

/-- Consuming a byte and producing the next one of `out` keeps the source, which is another buffer (R180). -/
theorem Transduced.produced_next (h : Transduced i st p x out k t) {o : Byte} (ho : out[k]? = some o) :
    Transduced i st p x out (k + 1) ((t.push st.dst o).consumed 1) where
  script := (t.memWrite_script ..).trans h.script
  busy := (t.memWrite_state ..).trans h.busy
  decoded := (congrArg decode (t.memWrite_cmd ..)).trans h.decoded
  active := (activeStage_congr (t.memWrite_stg ..)).trans h.active
  params := (t.memWrite_params ..).trans h.params
  source := by
    change ((t.memWrite st.dst t.wp o).buffer st.src).readSeq 0 x.length = some x
    rw [State.buffer_memWrite, if_neg (activeStage_spaces h.active).2.1]
    exact h.source
  slen := (t.memWrite_slen ..).trans h.slen
  rp := congrArg (· + 1) ((t.memWrite_rp ..).trans h.rp)
  wp := congrArg (· + 1) h.wp
  produced := by
    change ((t.memWrite st.dst t.wp o).buffer st.dst).readSeq 0 (k + 1) = _
    rw [State.buffer_memWrite, if_pos rfl, h.wp, List.take_add_one, ho]
    exact Memory.readSeq_write_next o h.produced

theorem Transduced.withPrev (h : Transduced i st p x out k t) (b : Byte) : Transduced i st p x out k (t.withPrev b) :=
  { h with }

end

/-- The invariant of a `DENC` stage (R105): PREV is the last input byte consumed, or 0. -/
structure DeltaEncoded (i : Instr) (st : Stage) (p : Params) (x : ByteSeq) (k : Nat) (t : State) : Prop
    extends Transduced i st p x (deltaEncode x) k t where
  kind : st.kind = .denc
  prev : (0#8 :: x)[k]? = some t.prev

section
variable {i : Instr} {st : Stage} {p : Params} {s t : State} {x : ByteSeq} {k : Nat}

theorem DeltaEncoded.step_eq_dencStep (h : DeltaEncoded i st p x k t) : step t = dencStep i st t := by
  rw [h.step_eq, stageStep, h.kind]

theorem DeltaEncoded.step_of_byte (h : DeltaEncoded i st p x k t) (hk : k < x.length) :
    step t = .next (produce st (subMod x[k] t.prev) (State.withPrev x[k]) t) := by
  rw [h.step_eq_dencStep]
  exact dencStep_of_byte (h.rp_lt hk) ((h.memRead_src hk).trans (List.getElem?_eq_getElem hk))

theorem DeltaEncoded.step_next (h : DeltaEncoded i st p x k t) (hk : k < x.length)
    (hroom : indexFits k (Params.cap p st.dst) = true) : ∃ u, step t = .next u ∧ DeltaEncoded i st p x (k + 1) u := by
  have hbyte : x[k]? = some x[k] := List.getElem?_eq_getElem hk
  refine ⟨_, (h.step_of_byte hk).trans (by rw [produce_of_room (h.hasRoom.trans hroom)]), ?_⟩
  exact { (h.produced_next (getElem?_deltaEncode h.prev hbyte)).withPrev _ with kind := h.kind, prev := hbyte }

theorem DeltaEncoded.step_full (h : DeltaEncoded i st p x k t) (hk : k < x.length)
    (hfull : indexFits k (Params.cap p st.dst) = false) : step t = .next (afterCapacityError t) := by
  rw [h.step_of_byte hk, produce_of_full (h.hasRoom.trans hfull)]

theorem DeltaEncoded.step_end (h : DeltaEncoded i st p x x.length t) : step t = .next (afterStageDone i t) := by
  rw [h.step_eq_dencStep, dencStep_of_end (by simp [h.rp, h.slen])]

theorem DeltaEncoded.prev_eq (h : DeltaEncoded i st p x k t) :
    t.prev = if k = 0 then 0#8 else (x[k - 1]?).getD 0#8 := by
  have hprev := h.prev
  cases k with
  | zero => exact (Option.some.inj hprev).symm
  | succ k => simp [show x[k]? = some t.prev from hprev]

/-- A `DENC` stage runs as long as what it has produced fits the destination. -/
theorem StageStart.deltaEncoded (h : StageStart i st s) (hkind : st.kind = .denc)
    (hx : (s.buffer st.src).readSeq 0 s.slen = some x) (hk : k ≤ x.length)
    (hfit : lengthWithin k (Params.cap s.params st.dst) = true) :
    ∃ t, runSteps k s = .next t ∧ DeltaEncoded i st s.params x k t := by
  have ⟨_, _, _, _, _, _, hprev, _⟩ := h
  refine runSteps_induction ?_ fun j t hj ht => ht.step_next (by omega) (indexFits_of_lengthWithin hfit hj)
  exact { StageStart.transduced h hx with kind := hkind, prev := by simp [hprev] }

end

/-- Settles O22: the stage keeps its invariant up to its end or the capacity, and the next step is `StageDone` or the raise. -/
theorem deltaEncodeStageResult : Obligations.DeltaEncodeStageResult := by
  intro i src dst s x hstart hx
  have hrun {k : Nat} (hk : k ≤ x.length) (hfit : lengthWithin k (Params.cap s.params dst) = true) :
      ∃ t, runSteps k s = .next t ∧ DeltaEncoded i ⟨.denc, src, dst⟩ s.params x k t :=
    StageStart.deltaEncoded hstart rfl hx hk hfit
  refine ⟨fun k hk hfit => ?_, fun hfit => ?_, fun c hcap hc => ?_⟩
  · obtain ⟨t, ht, h⟩ := hrun hk hfit
    exact ⟨t, ht, h.rp, h.wp, h.produced, h.prev_eq⟩
  · obtain ⟨u, hu, h⟩ := hrun (Nat.le_refl _) hfit
    refine ⟨u, hu, h.wp, ?_, runSteps_snoc hu h.step_end⟩
    rw [h.produced, List.take_of_length_le (by simp)]
  · obtain ⟨u, hu, h⟩ := hrun hc.le (by simp [hcap, lengthWithin])
    exact ⟨u, hu, h.wp, runSteps_snoc hu (h.step_full hc (by simp [hcap, indexFits]))⟩

end Sys2Proof.Machine

/-! # `deltaDecode` by its indices (R115) -/

namespace Sys2Proof.Machine

/-- The second summand of the byte at `k` is the output byte before it, `o` at the front (R115). -/
theorem getElem?_deltaSums {o q b : Byte} {y : ByteSeq} {k : Nat} (hq : (o :: deltaSums o y)[k]? = some q)
    (hb : y[k]? = some b) : (deltaSums o y)[k]? = some (addMod b q) := by
  induction y generalizing o k with
  | nil => simp at hb
  | cons c y ih =>
    cases k with
    | zero =>
      cases hq
      cases hb
      rfl
    | succ k => exact ih hq hb

theorem getElem?_deltaDecode {q b : Byte} {y : ByteSeq} {k : Nat} (hq : (0#8 :: deltaDecode y)[k]? = some q)
    (hb : y[k]? = some b) : (deltaDecode y)[k]? = some (addMod b q) := by
  rw [deltaDecode_eq_deltaSums] at hq ⊢
  exact getElem?_deltaSums hq hb

/-- Each running sum adds all the bytes up to its own to the byte `o` in front, the carries discarded (R115). -/
theorem deltaSums_getElem?_sum (o : Byte) {y : ByteSeq} {k : Nat} (hk : k < y.length) :
    ∃ v, (deltaSums o y)[k]? = some v ∧ v.toNat = (o.toNat + ((y.take (k + 1)).map BitVec.toNat).sum) % 256 := by
  induction y generalizing o k with
  | nil => simp at hk
  | cons b y ih =>
    have hhead : (addMod b o).toNat = (b.toNat + o.toNat) % 256 := addMod_toNat b o
    cases k with
    | zero => exact ⟨addMod b o, rfl, by simp [hhead, Nat.add_comm]⟩
    | succ k =>
      obtain ⟨v, hv, hsum⟩ := ih (addMod b o) (Nat.lt_of_succ_lt_succ hk)
      refine ⟨v, hv, ?_⟩
      rw [List.take_succ_cons, List.map_cons, List.sum_cons]
      omega

/-- Settles O52: from index 1 on, the byte before is an output byte and not the 0 in front, which adds nothing to a sum. -/
theorem deltaDecodeByIndex : Obligations.DeltaDecodeByIndex := by
  intro y
  refine ⟨length_deltaDecode y, by cases y <;> rfl, fun i p b hi hp hb => ?_, fun i hi => ?_⟩
  · obtain ⟨j, rfl⟩ := Nat.exists_eq_add_of_le' hi
    exact ⟨addMod b p, getElem?_deltaDecode hp hb, addMod_toNat b p⟩
  · simpa [deltaDecode_eq_deltaSums] using deltaSums_getElem?_sum 0#8 hi

end Sys2Proof.Machine

/-! # A `DDEC` step (R119) -/

namespace Sys2Proof.Machine

section
variable {i : Instr} {st : Stage} {s : State}

/-- A `DDEC` step with source left consumes one byte and produces its sum with ACC, which ACC takes (R119). -/
theorem ddecStep_of_byte {b : Byte} (hl : s.rp < s.slen) (hb : s.memRead st.src s.rp = some b) :
    ddecStep i st s = .next (produce st (addMod b s.acc) (State.withAcc (addMod b s.acc)) s) := by
  simp only [ddecStep, State.sourceLeft, hl, decide_true, if_true, hb]

/-- A `DDEC` step with no source left is `StageDone` (R119). -/
theorem ddecStep_of_end (hl : ¬s.rp < s.slen) : ddecStep i st s = .next (afterStageDone i s) := by
  simp only [ddecStep, State.sourceLeft, hl, decide_false, Bool.false_eq_true, if_false]
  rw [stageDone_eq_afterStageDone]

end

/-- Settles O17: the step consumes a byte and produces one, which ACC takes, raises, or is `StageDone`. -/
theorem deltaDecodeStep : Obligations.DeltaDecodeStep := by
  intro i src dst s hs hb hd ha
  have hstep : step s = ddecStep i ⟨.ddec, src, dst⟩ s := step_eq_stageStep hs hb hd ha
  refine ⟨fun b hl hsrc hroom => ?_, fun b hl hsrc hfull => ?_, fun hl => ?_, fun hinv => ?_⟩
  · refine ⟨((s.push dst (addMod b s.acc)).consumed 1).withAcc (addMod b s.acc), addMod b s.acc, ?_,
      addMod_toNat b s.acc, s.memRead_push dst _, s.writesOnly_push dst _, ?_⟩
    · rw [hstep, ddecStep_of_byte hl hsrc, produce_of_room (st := ⟨.ddec, src, dst⟩) hroom]
    · cases dst <;> rfl
  · rw [hstep, ddecStep_of_byte hl hsrc, produce_of_full (st := ⟨.ddec, src, dst⟩) hfull]
  · rw [hstep, ddecStep_of_end hl]
  · exact of_decide_eq_true (kindOk_of_inv hinv hb hd ha)

end Sys2Proof.Machine

/-! # A `DDEC` stage (R120)

The stage of R105 with another register: what `Transduced` says of the pointers and buffers is carried over as it stands,
and beside it ACC is the last byte produced. -/

namespace Sys2Proof.Machine

/-- The invariant of a `DDEC` stage (R120): ACC is the last output byte produced, or 0. -/
structure DeltaDecoded (i : Instr) (st : Stage) (p : Params) (y : ByteSeq) (k : Nat) (t : State) : Prop
    extends Transduced i st p y (deltaDecode y) k t where
  kind : st.kind = .ddec
  acc : (0#8 :: deltaDecode y)[k]? = some t.acc

section
variable {i : Instr} {st : Stage} {p : Params} {s t : State} {y out : ByteSeq} {k : Nat}

theorem Transduced.withAcc (h : Transduced i st p y out k t) (o : Byte) : Transduced i st p y out k (t.withAcc o) :=
  { h with }

theorem DeltaDecoded.step_eq_ddecStep (h : DeltaDecoded i st p y k t) : step t = ddecStep i st t := by
  rw [h.step_eq, stageStep, h.kind]

theorem DeltaDecoded.step_of_byte (h : DeltaDecoded i st p y k t) (hk : k < y.length) :
    step t = .next (produce st (addMod y[k] t.acc) (State.withAcc (addMod y[k] t.acc)) t) := by
  rw [h.step_eq_ddecStep]
  exact ddecStep_of_byte (h.rp_lt hk) ((h.memRead_src hk).trans (List.getElem?_eq_getElem hk))

theorem DeltaDecoded.step_next (h : DeltaDecoded i st p y k t) (hk : k < y.length)
    (hroom : indexFits k (Params.cap p st.dst) = true) : ∃ u, step t = .next u ∧ DeltaDecoded i st p y (k + 1) u := by
  have hout : (deltaDecode y)[k]? = some (addMod y[k] t.acc) := getElem?_deltaDecode h.acc (List.getElem?_eq_getElem hk)
  refine ⟨_, (h.step_of_byte hk).trans (by rw [produce_of_room (h.hasRoom.trans hroom)]), ?_⟩
  exact { (h.produced_next hout).withAcc _ with kind := h.kind, acc := hout }

theorem DeltaDecoded.step_full (h : DeltaDecoded i st p y k t) (hk : k < y.length)
    (hfull : indexFits k (Params.cap p st.dst) = false) : step t = .next (afterCapacityError t) := by
  rw [h.step_of_byte hk, produce_of_full (h.hasRoom.trans hfull)]

theorem DeltaDecoded.step_end (h : DeltaDecoded i st p y y.length t) : step t = .next (afterStageDone i t) := by
  rw [h.step_eq_ddecStep, ddecStep_of_end (by simp [h.rp, h.slen])]

theorem DeltaDecoded.acc_eq (h : DeltaDecoded i st p y k t) :
    t.acc = if k = 0 then 0#8 else ((deltaDecode y)[k - 1]?).getD 0#8 := by
  have hacc := h.acc
  rw [List.getElem?_cons] at hacc
  split at hacc
  · rw [if_pos ‹_›]
    exact (Option.some.inj hacc).symm
  · rw [if_neg ‹_›, hacc, Option.getD_some]

/-- A `DDEC` stage runs as long as what it has produced fits the destination. -/
theorem StageStart.deltaDecoded (h : StageStart i st s) (hkind : st.kind = .ddec)
    (hy : (s.buffer st.src).readSeq 0 s.slen = some y) (hk : k ≤ y.length)
    (hfit : lengthWithin k (Params.cap s.params st.dst) = true) :
    ∃ t, runSteps k s = .next t ∧ DeltaDecoded i st s.params y k t := by
  have ⟨_, _, _, _, _, _, _, hacc, _⟩ := h
  refine runSteps_induction ?_ fun j t hj ht => ht.step_next (by omega) (indexFits_of_lengthWithin hfit hj)
  exact { StageStart.transduced h hy with kind := hkind, acc := by simp [hacc] }

end

/-- Settles O23: the stage keeps its invariant up to its end or the capacity, and the next step is `StageDone` or the raise. -/
theorem deltaDecodeStageResult : Obligations.DeltaDecodeStageResult := by
  intro i src dst s y hstart hy
  have hrun {k : Nat} (hk : k ≤ y.length) (hfit : lengthWithin k (Params.cap s.params dst) = true) :
      ∃ t, runSteps k s = .next t ∧ DeltaDecoded i ⟨.ddec, src, dst⟩ s.params y k t :=
    StageStart.deltaDecoded hstart rfl hy hk hfit
  refine ⟨fun k hk hfit => ?_, fun hfit => ?_, fun c hcap hc => ?_⟩
  · obtain ⟨t, ht, h⟩ := hrun hk hfit
    exact ⟨t, ht, h.rp, h.wp, h.produced, h.acc_eq⟩
  · obtain ⟨u, hu, h⟩ := hrun (Nat.le_refl _) hfit
    refine ⟨u, hu, h.wp, ?_, runSteps_snoc hu h.step_end⟩
    rw [h.produced, List.take_of_length_le (by simp)]
  · obtain ⟨u, hu, h⟩ := hrun hc.le (by simp [hcap, lengthWithin])
    exact ⟨u, hu, h.wp, runSteps_snoc hu (h.step_full hc (by simp [hcap, indexFits]))⟩

end Sys2Proof.Machine

/-! # The records of the run-length encoder (R130, R131, R132)

The encoder is characterised by its records: `GreedyRecords` are those whose runs were not cut short, and they are what
`rleEncode` emits for the bytes they spell out. -/

namespace Sys2Proof.Machine

/-- A value and its run length. -/
abbrev Record := Byte × Byte

/-- The bytes of a sequence of records. -/
def recordBytes (recs : List Record) : ByteSeq := (recs.map fun r => [r.1, r.2]).flatten

/-- The bytes that a sequence of records spells out. -/
def recordRuns (recs : List Record) : ByteSeq := (recs.map fun r => List.replicate r.2.toNat r.1).flatten

/-- No run is empty, and only a full one is followed by a run of the same value (R132). -/
def GreedyRecords (recs : List Record) : Prop :=
  (∀ r ∈ recs, r.2 ≠ 0#8) ∧ recs.IsChain fun r r' => r.1 = r'.1 → r.2 = 255#8

@[simp] theorem recordBytes_nil : recordBytes [] = [] := rfl

@[simp] theorem recordBytes_cons (v n : Byte) (recs : List Record) :
    recordBytes ((v, n) :: recs) = v :: n :: recordBytes recs := rfl

@[simp] theorem recordBytes_append (recs recs' : List Record) :
    recordBytes (recs ++ recs') = recordBytes recs ++ recordBytes recs' := by
  simp [recordBytes]

@[simp] theorem length_recordBytes (recs : List Record) : (recordBytes recs).length = 2 * recs.length := by
  simp [recordBytes, Function.comp_def, Nat.mul_comm]

@[simp] theorem recordRuns_nil : recordRuns [] = [] := rfl

@[simp] theorem recordRuns_cons (v n : Byte) (recs : List Record) :
    recordRuns ((v, n) :: recs) = List.replicate n.toNat v ++ recordRuns recs := rfl

@[simp] theorem recordRuns_append (recs recs' : List Record) :
    recordRuns (recs ++ recs') = recordRuns recs ++ recordRuns recs' := by
  simp [recordRuns]

theorem length_recordRuns (recs : List Record) : (recordRuns recs).length = (recs.map fun r => r.2.toNat).sum := by
  simp [recordRuns, List.length_flatten, Function.comp_def]

/-- The values stand at the even indices. -/
theorem recordBytes_getElem?_even (recs : List Record) (j : Nat) :
    (recordBytes recs)[2 * j]? = recs[j]?.map Prod.fst := by
  induction recs generalizing j with
  | nil => rfl
  | cons r recs ih =>
    cases j with
    | zero => rfl
    | succ j => exact ih j

/-- The run lengths stand at the odd indices. -/
theorem recordBytes_getElem?_odd (recs : List Record) (j : Nat) :
    (recordBytes recs)[2 * j + 1]? = recs[j]?.map Prod.snd := by
  induction recs generalizing j with
  | nil => rfl
  | cons r recs ih =>
    cases j with
    | zero => rfl
    | succ j => exact ih j

/-! One record of the encoder. -/

@[simp] theorem rleEncode_nil : rleEncode [] = [] := rfl

/-- The recursion of R130, free of its bound. -/
theorem rleEncode_cons (v : Byte) (x : ByteSeq) :
    rleEncode (v :: x) =
      v :: BitVec.ofNat 8 (min (runPrefix v (v :: x)) 255) ::
        rleEncode ((v :: x).drop (min (runPrefix v (v :: x)) 255)) := by
  have hpos : 1 ≤ min (runPrefix v (v :: x)) 255 := by simp [runPrefix_cons]
  rw [← rleEncodeUpTo_enough x.length ((v :: x).drop _) (by simp only [List.length_drop, List.length_cons]; omega)]
  rfl

theorem runPrefix_eq_takeWhile (v : Byte) (x : ByteSeq) : runPrefix v x = (x.takeWhile fun b => b == v).length := by
  induction x with
  | nil => rfl
  | cons b x ih =>
    rw [runPrefix_cons, List.takeWhile_cons]
    by_cases h : b = v <;> simp [h, ih]

theorem runPrefix_of_head {v : Byte} {y : ByteSeq} (h : y.head? ≠ some v) : runPrefix v y = 0 := by
  cases y with
  | nil => rfl
  | cons b y => rw [runPrefix_cons, if_neg (by simpa using h)]

theorem runPrefix_replicate_append (v : Byte) (m : Nat) (y : ByteSeq) :
    runPrefix v (List.replicate m v ++ y) = m + runPrefix v y := by
  induction m with
  | zero => simp
  | succ m ih =>
    rw [List.replicate_succ, List.cons_append, runPrefix_cons, if_pos rfl, ih]
    omega

/-- A run that is full, or that the next byte ends, is one record (R130). -/
theorem rleEncode_run {v : Byte} {m : Nat} {y : ByteSeq} (hpos : 1 ≤ m) (hmax : m ≤ 255)
    (hend : y.head? = some v → m = 255) :
    rleEncode (List.replicate m v ++ y) = v :: BitVec.ofNat 8 m :: rleEncode y := by
  have hm : min (runPrefix v (List.replicate m v ++ y)) 255 = m := by
    rw [runPrefix_replicate_append]
    by_cases hy : y.head? = some v
    · have := hend hy
      omega
    · rw [runPrefix_of_head hy]
      omega
  obtain ⟨j, rfl⟩ := Nat.exists_eq_add_of_le' hpos
  rw [List.replicate_succ, List.cons_append] at hm ⊢
  rw [rleEncode_cons, hm, ← List.cons_append, ← List.replicate_succ, List.drop_left' (List.length_replicate ..)]

/-! Greedy records. -/

theorem GreedyRecords.nil : GreedyRecords [] := ⟨nofun, .nil⟩

theorem greedyRecords_cons {v n : Byte} {recs : List Record} :
    GreedyRecords ((v, n) :: recs) ↔
      n ≠ 0#8 ∧ (∀ r ∈ recs.head?, v = r.1 → n = 255#8) ∧ GreedyRecords recs := by
  simp only [GreedyRecords, List.forall_mem_cons, List.isChain_cons]
  tauto

/-- The next record of greedy records is of the byte that comes next. -/
theorem GreedyRecords.head?_recordRuns {recs : List Record} (h : GreedyRecords recs) :
    (recordRuns recs).head? = recs.head?.map Prod.fst := by
  cases recs with
  | nil => rfl
  | cons r recs =>
    obtain ⟨v, n⟩ := r
    have hn := BitVec.toNat_pos_of_ne_zero (greedyRecords_cons.1 h).1
    simp [List.head?_append, List.head?_replicate, hn.ne']

/-- Greedy records are the encoding of what they spell out. -/
theorem GreedyRecords.rleEncode_recordRuns {recs : List Record} (h : GreedyRecords recs) :
    rleEncode (recordRuns recs) = recordBytes recs := by
  induction recs with
  | nil => rfl
  | cons r recs ih =>
    obtain ⟨v, n⟩ := r
    obtain ⟨hn, hnext, hrecs⟩ := greedyRecords_cons.1 h
    have hend : (recordRuns recs).head? = some v → n.toNat = 255 := by
      rw [hrecs.head?_recordRuns, Option.map_eq_some_iff]
      rintro ⟨r, hr, rfl⟩
      exact congrArg BitVec.toNat (hnext r hr rfl)
    rw [recordRuns_cons, rleEncode_run (BitVec.toNat_pos_of_ne_zero hn) (Nat.le_of_lt_succ n.isLt) hend, ih hrecs,
      BitVec.ofNat_toNat, BitVec.setWidth_eq, recordBytes_cons]

/-- The last of greedy records may grow. -/
theorem GreedyRecords.grow {recs : List Record} {v n n' : Byte} (h : GreedyRecords (recs ++ [(v, n)])) (hn : n' ≠ 0#8) :
    GreedyRecords (recs ++ [(v, n')]) := by
  obtain ⟨hpos, hchain⟩ := h
  rw [List.isChain_append] at hchain
  refine ⟨?_, List.isChain_append.2 ⟨hchain.1, .singleton _, by simpa using hchain.2.2⟩⟩
  simp only [List.forall_mem_append, List.forall_mem_singleton] at hpos ⊢
  exact ⟨hpos.1, hn⟩

/-- A record may follow greedy records unless the last one can still count its byte. -/
theorem GreedyRecords.snoc {recs : List Record} {v n b : Byte} (h : GreedyRecords (recs ++ [(v, n)]))
    (hb : ¬(b = v ∧ n.toNat < 255)) : GreedyRecords (recs ++ [(v, n), (b, 1#8)]) := by
  obtain ⟨hpos, hchain⟩ := h
  refine ⟨by simpa [or_imp, forall_and] using hpos,
    List.isChain_append_cons_cons.2 ⟨hchain, fun e => ?_, .singleton _⟩⟩
  have hfull : ¬n.toNat < 255 := fun hn => hb ⟨e.symm, hn⟩
  have hlt := n.isLt
  exact BitVec.eq_of_toNat_eq (show n.toNat = 255 by omega)

theorem toNat_runLength_add_one {n : Byte} (hn : n.toNat < 255) : (n + 1#8).toNat = n.toNat + 1 :=
  BitVec.toNat_add_of_lt (Nat.succ_lt_succ hn)

theorem runLength_add_one_ne_zero {n : Byte} (hn : n.toNat < 255) : n + 1#8 ≠ 0#8 := by
  rw [← BitVec.toNat_ne_iff_ne, toNat_runLength_add_one hn]
  exact Nat.succ_ne_zero _

/-- A record that counts one byte more spells out one more. -/
theorem recordRuns_grow (recs : List Record) (v : Byte) {n : Byte} (hn : n.toNat < 255) :
    recordRuns (recs ++ [(v, n + 1#8)]) = recordRuns (recs ++ [(v, n)]) ++ [v] := by
  simp [toNat_runLength_add_one hn, List.replicate_succ']

/-- Every input is spelt out by greedy records: its last byte lengthens the last run or opens a new one. -/
theorem exists_greedyRecords (x : ByteSeq) : ∃ recs, GreedyRecords recs ∧ recordRuns recs = x := by
  induction x using List.reverseRecOn with
  | nil => exact ⟨[], .nil, rfl⟩
  | append_singleton x b ih =>
    obtain ⟨recs, hrecs, rfl⟩ := ih
    obtain rfl | ⟨recs, ⟨v, n⟩, rfl⟩ := recs.eq_nil_or_concat'
    · exact ⟨[(b, 1#8)], greedyRecords_cons.2 ⟨by decide, nofun, .nil⟩, rfl⟩
    · by_cases h : b = v ∧ n.toNat < 255
      · obtain ⟨rfl, hn⟩ := h
        exact ⟨recs ++ [(b, n + 1#8)], hrecs.grow (runLength_add_one_ne_zero hn), recordRuns_grow recs b hn⟩
      · exact ⟨recs ++ [(v, n), (b, 1#8)], hrecs.snoc h, by simp⟩

/-- What `rleEncode` emits are the greedy records of its input. -/
theorem rleEncode_eq_recordBytes (x : ByteSeq) :
    ∃ recs, GreedyRecords recs ∧ recordRuns recs = x ∧ rleEncode x = recordBytes recs := by
  obtain ⟨recs, hrecs, rfl⟩ := exists_greedyRecords x
  exact ⟨recs, hrecs, rfl, hrecs.rleEncode_recordRuns⟩

end Sys2Proof.Machine

/-! # `rleEncode` (R130 to R133) -/

namespace Sys2Proof.Machine

/-- Settles O54: the run of the recursion is `takeWhile`'s, and it is not empty. -/
theorem runLengthEncodeRecursion : Obligations.RunLengthEncodeRecursion := by
  refine ⟨rleEncode_nil, ?_⟩
  rintro v x k m rfl rfl
  rw [← runPrefix_eq_takeWhile]
  exact ⟨by simp [runPrefix_cons], rleEncode_cons v x⟩

/-- Full runs first, whatever follows them (R131). -/
theorem rleEncode_fullRuns (v : Byte) (q : Nat) (z : ByteSeq) :
    rleEncode (List.replicate (255 * q) v ++ z) = (List.replicate q [v, 255#8]).flatten ++ rleEncode z := by
  induction q with
  | zero => rfl
  | succ q ih =>
    rw [Nat.mul_succ, Nat.add_comm, List.replicate_add, List.append_assoc,
      rleEncode_run (by decide) (by decide) fun _ => rfl, ih]
    rfl

/-- A run as R131 splits it. -/
theorem rleEncode_replicate_append (v : Byte) (k : Nat) {y : ByteSeq} (hy : y.head? ≠ some v) :
    rleEncode (List.replicate k v ++ y) =
      (List.replicate (k / 255) [v, 255#8]).flatten ++
        (if k % 255 = 0 then [] else [v, BitVec.ofNat 8 (k % 255)]) ++ rleEncode y := by
  conv_lhs => rw [← Nat.div_add_mod k 255, List.replicate_add, List.append_assoc, rleEncode_fullRuns]
  rw [List.append_assoc]
  split
  · rename_i hr
    rw [hr]
    rfl
  · rw [rleEncode_run (by omega) (by omega) fun h => absurd h hy]
    rfl

/-- Settles O55: the full runs first, and then the remainder, which the next byte ends. -/
theorem runsSplitGreedily : Obligations.RunsSplitGreedily :=
  fun v k _ hy => rleEncode_replicate_append v k hy

/-- Settles O56: the records are greedy, and run lengths and values stand at the odd and the even indices. -/
theorem runLengthEncodeShape : Obligations.RunLengthEncodeShape := by
  intro x
  obtain ⟨recs, ⟨hpos, hchain⟩, rfl, henc⟩ := rleEncode_eq_recordBytes x
  rw [henc]
  refine ⟨by simp, fun j n hn => ?_, fun j v hv hnext => ?_, recs, rfl, (length_recordRuns recs).symm, rfl⟩
  · rw [recordBytes_getElem?_odd, Option.map_eq_some_iff] at hn
    obtain ⟨r, hr, rfl⟩ := hn
    exact ⟨BitVec.toNat_pos_of_ne_zero (hpos r (List.mem_of_getElem? hr)), Nat.le_of_lt_succ r.2.isLt⟩
  · rw [recordBytes_getElem?_even, Option.map_eq_some_iff] at hv
    rw [show 2 * j + 2 = 2 * (j + 1) from rfl, recordBytes_getElem?_even, Option.map_eq_some_iff] at hnext
    obtain ⟨r, hr, rfl⟩ := hv
    obtain ⟨r', hr', hval⟩ := hnext
    obtain ⟨hlt, rfl⟩ := List.getElem?_eq_some_iff.1 hr'
    obtain ⟨_, rfl⟩ := List.getElem?_eq_some_iff.1 hr
    rw [recordBytes_getElem?_odd, hr, Option.map_some, hchain.getElem j hlt hval.symm]

/-- Every record stands for 1 to 255 bytes (R133). -/
theorem GreedyRecords.length_recordRuns_bounds {recs : List Record} (h : GreedyRecords recs) :
    recs.length ≤ (recordRuns recs).length ∧ (recordRuns recs).length ≤ 255 * recs.length := by
  induction recs with
  | nil => simp
  | cons r recs ih =>
    obtain ⟨v, n⟩ := r
    obtain ⟨hn, _, hrecs⟩ := greedyRecords_cons.1 h
    have hpos := BitVec.toNat_pos_of_ne_zero hn
    have hlt := n.isLt
    have ⟨hlo, hhi⟩ := ih hrecs
    simp only [recordRuns_cons, List.length_append, List.length_replicate, List.length_cons]
    omega

/-- Without equal neighbours every byte is a record of its own (R133). -/
theorem length_rleEncode_of_no_equal_neighbours (x : ByteSeq)
    (h : ∀ i p b, x[i]? = some p → x[i + 1]? = some b → p ≠ b) : (rleEncode x).length = 2 * x.length := by
  induction x with
  | nil => rfl
  | cons v x ih =>
    have hne : x.head? ≠ some v := fun e => h 0 v v rfl (by simpa [List.head?_eq_getElem?] using e) rfl
    have hrun := rleEncode_run (Nat.le_refl 1) (by decide) fun e => absurd e hne
    rw [show v :: x = List.replicate 1 v ++ x from rfl, hrun]
    simp only [List.length_cons, List.length_append, List.length_replicate, ih fun i p b => h (i + 1) p b]
    omega

/-- A constant sequence has as few records as its length allows (R133). -/
theorem length_rleEncode_replicate (b : Byte) (n : Nat) :
    (rleEncode (List.replicate n b)).length = 2 * ((n + 254) / 255) := by
  have hsplit := rleEncode_replicate_append b n (y := []) (by simp)
  rw [List.append_nil] at hsplit
  rw [hsplit]
  split <;> simp <;> omega

/-- Settles O57: every record is two bytes and stands for 1 to 255. -/
theorem runLengthEncodeSizes : Obligations.RunLengthEncodeSizes := by
  refine ⟨rleEncode_nil, fun x => ?_, length_rleEncode_of_no_equal_neighbours, length_rleEncode_replicate, by decide⟩
  obtain ⟨recs, hrecs, rfl, henc⟩ := rleEncode_eq_recordBytes x
  have hbounds := hrecs.length_recordRuns_bounds
  rw [henc, length_recordBytes]
  omega

end Sys2Proof.Machine

/-! # A `RENC` step (R135, R136) -/

namespace Sys2Proof.Machine

/-- The open record is written, the value first (R136). -/
def State.pushRecord (sp : Space) (s : State) : State := (s.push sp s.cur).push sp s.cnt

section
variable {i : Instr} {st : Stage} {s : State}

/-- A `RENC` step that reads a byte while no run is open opens one (R135). -/
theorem rencStep_of_opening {b : Byte} (hl : s.rp < s.slen) (hb : s.memRead st.src s.rp = some b) (hc : s.cnt = 0#8) :
    rencStep i st s = .next (s.openRun b) := by
  simp [rencStep, State.sourceLeft, State.noOpenRun, hl, hb, hc]

/-- A `RENC` step that reads the byte of a run that is not full lengthens it (R135). -/
theorem rencStep_of_growing (hl : s.rp < s.slen) (hb : s.memRead st.src s.rp = some s.cur) (hc : s.cnt ≠ 0#8)
    (hm : s.cnt.toNat < 255) : rencStep i st s = .next s.growRun := by
  simp [rencStep, State.sourceLeft, State.noOpenRun, Config.runMax, hl, hb, hc, hm]

/-- A `RENC` step that reads a byte the open run cannot take emits the run and opens the next (R135). -/
theorem rencStep_of_turning {b : Byte} (hl : s.rp < s.slen) (hb : s.memRead st.src s.rp = some b) (hc : s.cnt ≠ 0#8)
    (hm : ¬(b = s.cur ∧ s.cnt.toNat < 255)) : rencStep i st s = .next (emitThen st (State.openRun b) s) := by
  simp [rencStep, State.sourceLeft, State.noOpenRun, Config.runMax, hl, hb, hc, -not_and, hm]

/-- A `RENC` step with no source left emits the open run (R135). -/
theorem rencStep_of_closing (hl : ¬s.rp < s.slen) (hc : s.cnt ≠ 0#8) :
    rencStep i st s = .next (emitThen st State.closeRun s) := by
  simp [rencStep, State.sourceLeft, State.noOpenRun, -not_lt, hl, hc]

/-- A `RENC` step with no source left and no open run is `StageDone` (R135). -/
theorem rencStep_of_end (hl : ¬s.rp < s.slen) (hc : s.cnt = 0#8) : rencStep i st s = .next (afterStageDone i s) := by
  rw [← stageDone_eq_afterStageDone]
  simp [rencStep, State.sourceLeft, State.noOpenRun, -not_lt, hl, hc]

theorem emitThen_of_room {andThen : State → State} (h : s.hasRoom st.dst (s.wp + 1) = true) :
    emitThen st andThen s = andThen (s.pushRecord st.dst) := by
  rw [emitThen_eq, if_pos h, State.pushRecord]

theorem emitThen_of_full {andThen : State → State} (h : s.hasRoom st.dst (s.wp + 1) = false) :
    emitThen st andThen s = afterCapacityError s := by
  rw [emitThen_eq, if_neg (by simp [h]), raise_eq_afterCapacityError]

end

theorem State.memRead_push_other (s : State) {sp sp' : Space} {a : Nat} (v : Byte) (h : ¬(sp' = sp ∧ a = s.wp)) :
    (s.push sp v).memRead sp' a = s.memRead sp' a :=
  s.memRead_memWrite_other v h

theorem State.memRead_pushRecord_value (s : State) (sp : Space) : (s.pushRecord sp).memRead sp s.wp = some s.cur := by
  rw [State.pushRecord, State.memRead_push_other _ _ fun h => absurd h.2 (Nat.ne_of_lt (Nat.lt_succ_self _)),
    State.memRead_push]

theorem State.memRead_pushRecord_length (s : State) (sp : Space) :
    (s.pushRecord sp).memRead sp (s.wp + 1) = some s.cnt :=
  (s.push sp s.cur).memRead_push sp s.cnt

theorem State.writesOnly_pushRecord (s : State) (sp : Space) : WritesOnly s (s.pushRecord sp) sp s.wp 2 := by
  intro sp' a h
  rw [State.pushRecord, State.memRead_push_other, State.memRead_push_other]
  · exact fun ⟨hsp, ha⟩ => h ⟨hsp, by omega⟩
  · exact fun ⟨hsp, ha⟩ => h ⟨hsp, by simp only [State.push] at ha; omega⟩

/-- Beside the buffers, writing a record moves only WP. -/
theorem State.pushRecord_eq (s : State) (sp : Space) :
    s.pushRecord sp =
      { s with ibuf := (s.pushRecord sp).ibuf, mbuf := (s.pushRecord sp).mbuf, obuf := (s.pushRecord sp).obuf,
               wp := s.wp + 2 } := by
  cases sp <;> rfl

/-- Settles O18: by whether source is left and a run open, and what the next byte is to the run. -/
theorem runLengthEncodeStep : Obligations.RunLengthEncodeStep := by
  intro i src dst s hs hb hd ha
  have hstep : step s = rencStep i ⟨.renc, src, dst⟩ s := step_eq_stageStep hs hb hd ha
  have hturn {b : Byte} (h : b ≠ s.cur ∨ s.cnt.toNat = 255) : ¬(b = s.cur ∧ s.cnt.toNat < 255) :=
    fun ⟨hcur, hm⟩ => h.elim (absurd hcur) hm.ne
  refine ⟨fun b hl hsrc => ⟨fun hc => ?_, fun hc hcur hm => ?_, fun hc hm hroom => ?_, fun hc hm hfull => ?_⟩,
    fun hl => ⟨fun hc hroom => ?_, fun hc hfull => ?_, fun hc => ?_⟩⟩
  · rw [hstep, rencStep_of_opening hl hsrc hc]
    rfl
  · rw [hstep, rencStep_of_growing hl (hcur ▸ hsrc) hc hm, State.growRun]
    simp [BitVec.ofNat_add]
  · refine ⟨(s.pushRecord dst).openRun b, ?_, s.memRead_pushRecord_value dst, s.memRead_pushRecord_length dst,
      s.writesOnly_pushRecord dst, ?_⟩
    · rw [hstep, rencStep_of_turning hl hsrc hc (hturn hm), emitThen_of_room (st := ⟨.renc, src, dst⟩) hroom]
    · exact congrArg (State.openRun b) (s.pushRecord_eq dst)
  · rw [hstep, rencStep_of_turning hl hsrc hc (hturn hm), emitThen_of_full (st := ⟨.renc, src, dst⟩) hfull]
  · refine ⟨(s.pushRecord dst).closeRun, ?_, s.memRead_pushRecord_value dst, s.memRead_pushRecord_length dst,
      s.writesOnly_pushRecord dst, ?_⟩
    · rw [hstep, rencStep_of_closing hl hc, emitThen_of_room (st := ⟨.renc, src, dst⟩) hroom]
    · exact congrArg State.closeRun (s.pushRecord_eq dst)
  · rw [hstep, rencStep_of_closing hl hc, emitThen_of_full (st := ⟨.renc, src, dst⟩) hfull]
  · rw [hstep, rencStep_of_end hl hc]

end Sys2Proof.Machine

/-! # `rleEncode` byte by byte (R135, R137)

What one more byte at the end of the input does to the encoding: it lengthens the last run or opens a new one. -/

namespace Sys2Proof.Machine

theorem rleEncode_singleton (b : Byte) : rleEncode [b] = [b, 1#8] :=
  rleEncode_run (v := b) (y := []) (Nat.le_refl 1) (by decide) nofun

/-- The greedy records of an encoding whose last record is known. -/
theorem exists_greedyRecords_snoc {x out : ByteSeq} {v n : Byte} (h : rleEncode x = out ++ [v, n]) :
    ∃ recs, GreedyRecords (recs ++ [(v, n)]) ∧ recordRuns (recs ++ [(v, n)]) = x ∧ recordBytes recs = out := by
  obtain ⟨recs, hrecs, hx, henc⟩ := rleEncode_eq_recordBytes x
  rw [h] at henc
  obtain rfl | ⟨recs, ⟨v', n'⟩, rfl⟩ := recs.eq_nil_or_concat'
  · simp at henc
  · rw [recordBytes_append] at henc
    obtain ⟨hout, hlast⟩ := List.append_inj' henc rfl
    cases hlast
    exact ⟨recs, hrecs, hx, hout.symm⟩

/-- A byte that the last run can take lengthens it. -/
theorem rleEncode_grow {x out : ByteSeq} {v n : Byte} (h : rleEncode x = out ++ [v, n]) (hn : n.toNat < 255) :
    rleEncode (x ++ [v]) = out ++ [v, n + 1#8] := by
  obtain ⟨recs, hrecs, rfl, rfl⟩ := exists_greedyRecords_snoc h
  rw [← recordRuns_grow recs v hn, (hrecs.grow (runLength_add_one_ne_zero hn)).rleEncode_recordRuns, recordBytes_append]
  rfl

/-- Any other byte opens a run. -/
theorem rleEncode_turn {x out : ByteSeq} {v n b : Byte} (h : rleEncode x = out ++ [v, n])
    (hb : ¬(b = v ∧ n.toNat < 255)) : rleEncode (x ++ [b]) = out ++ [v, n] ++ [b, 1#8] := by
  obtain ⟨recs, hrecs, rfl, rfl⟩ := exists_greedyRecords_snoc h
  have hruns : recordRuns (recs ++ [(v, n)]) ++ [b] = recordRuns (recs ++ [(v, n), (b, 1#8)]) := by simp
  rw [hruns, (hrecs.snoc hb).rleEncode_recordRuns, recordBytes_append, List.append_assoc]
  rfl

theorem length_rleEncode_snoc_le (x : ByteSeq) (b : Byte) : (rleEncode x).length ≤ (rleEncode (x ++ [b])).length := by
  obtain ⟨recs, -, -, henc⟩ := rleEncode_eq_recordBytes x
  obtain rfl | ⟨recs, ⟨v, n⟩, rfl⟩ := recs.eq_nil_or_concat'
  · simp [henc]
  · rw [recordBytes_append] at henc
    by_cases h : b = v ∧ n.toNat < 255
    · obtain ⟨rfl, hn⟩ := h
      rw [rleEncode_grow henc hn, henc]
      simp
    · rw [rleEncode_turn henc h, henc]
      simp

/-- The encoding of the start of an input is not longer than that of the whole. -/
theorem length_rleEncode_take_le (x : ByteSeq) (k : Nat) : (rleEncode (x.take k)).length ≤ (rleEncode x).length := by
  suffices h : ∀ y z : ByteSeq, (rleEncode y).length ≤ (rleEncode (y ++ z)).length by
    simpa using h (x.take k) (x.drop k)
  intro y z
  induction z using List.reverseRecOn with
  | nil => simp
  | append_singleton z b ih =>
    rw [← List.append_assoc]
    exact ih.trans (length_rleEncode_snoc_le _ b)

end Sys2Proof.Machine

/-! # A `RENC` stage (R137)

The loop invariant is the rule's own: what has been emitted, with the open record, is the encoding of what has been read. -/

namespace Sys2Proof.Machine

/-- The run still to be emitted, as the record it will be, if one is open (R35). -/
def State.openRecord (s : State) : ByteSeq := if s.cnt = 0#8 then [] else [s.cur, s.cnt]

theorem State.openRecord_of_none {s : State} (h : s.cnt = 0#8) : s.openRecord = [] := if_pos h

theorem State.openRecord_of_run {s : State} (h : s.cnt ≠ 0#8) : s.openRecord = [s.cur, s.cnt] := if_neg h

/-- The machine is in a stage over the source `x`, wherever in it. -/
structure InStage (i : Instr) (st : Stage) (p : Params) (x : ByteSeq) (t : State) : Prop where
  script : t.script = []
  busy : t.state = .busy
  decoded : decode t.cmd = .ok i
  active : activeStage i t = some st
  params : t.params = p
  source : (t.buffer st.src).readSeq 0 x.length = some x
  slen : t.slen = x.length

/-- `out` is what the stage has produced. -/
def State.Produced (t : State) (sp : Space) (out : ByteSeq) : Prop := (t.buffer sp).readSeq 0 t.wp = some out

theorem State.Produced.wp_eq {t : State} {sp : Space} {out : ByteSeq} (h : t.Produced sp out) : t.wp = out.length :=
  (Memory.length_of_readSeq h).symm

theorem State.Produced.push {t : State} {sp : Space} {out : ByteSeq} (h : t.Produced sp out) (v : Byte) :
    (t.push sp v).Produced sp (out ++ [v]) := by
  change ((t.memWrite sp t.wp v).buffer sp).readSeq 0 (t.wp + 1) = _
  rw [State.buffer_memWrite, if_pos rfl]
  exact Memory.readSeq_write_next v h

theorem State.Produced.pushRecord {t : State} {sp : Space} {out : ByteSeq} (h : t.Produced sp out) :
    (t.pushRecord sp).Produced sp (out ++ [t.cur, t.cnt]) := by
  simpa [State.pushRecord] using (h.push t.cur).push t.cnt

theorem State.pushRecord_rp (t : State) (sp : Space) : (t.pushRecord sp).rp = t.rp := by simp [State.pushRecord, State.push]

theorem lengthWithin_succ (n : Nat) (c : Option Nat) : lengthWithin (n + 1) c = indexFits n c := by
  cases c <;> rfl

theorem lengthWithin_mono {m n : Nat} {c : Option Nat} (h : lengthWithin n c = true) (hm : m ≤ n) :
    lengthWithin m c = true := by
  cases c with
  | none => rfl
  | some c => exact decide_eq_true (hm.trans (of_decide_eq_true h))

section
variable {i : Instr} {st : Stage} {p : Params} {s t : State} {x : ByteSeq} {k : Nat}

theorem StageStart.inStage (h : StageStart i st s) (hx : (s.buffer st.src).readSeq 0 s.slen = some x) :
    InStage i st s.params x s := by
  obtain ⟨hscript, hbusy, hdec, hact, _⟩ := h
  have hlen := Memory.length_of_readSeq hx
  exact ⟨hscript, hbusy, hdec, hact, rfl, hlen ▸ hx, hlen.symm⟩

theorem InStage.step_eq (h : InStage i st p x t) : step t = stageStep i st t :=
  step_eq_stageStep h.script h.busy h.decoded h.active

theorem InStage.memRead_src (h : InStage i st p x t) (hk : k < x.length) : t.memRead st.src k = some x[k] :=
  (Memory.read_of_readSeq h.source hk).trans (List.getElem?_eq_getElem hk)

/-- Producing a byte keeps the source, which is another buffer (R180). -/
theorem InStage.push (h : InStage i st p x t) (v : Byte) : InStage i st p x (t.push st.dst v) where
  script := (t.memWrite_script ..).trans h.script
  busy := (t.memWrite_state ..).trans h.busy
  decoded := (congrArg decode (t.memWrite_cmd ..)).trans h.decoded
  active := (activeStage_congr (t.memWrite_stg ..)).trans h.active
  params := (t.memWrite_params ..).trans h.params
  source := by
    change ((t.memWrite st.dst t.wp v).buffer st.src).readSeq 0 x.length = some x
    rw [State.buffer_memWrite, if_neg (activeStage_spaces h.active).2.1]
    exact h.source
  slen := (t.memWrite_slen ..).trans h.slen

theorem InStage.pushRecord (h : InStage i st p x t) : InStage i st p x (t.pushRecord st.dst) :=
  (h.push t.cur).push t.cnt

theorem InStage.openRun (h : InStage i st p x t) (b : Byte) : InStage i st p x (t.openRun b) := { h with }

theorem InStage.growRun (h : InStage i st p x t) : InStage i st p x t.growRun := { h with }

theorem InStage.closeRun (h : InStage i st p x t) : InStage i st p x t.closeRun := { h with }

end

/-- The invariant of a `RENC` stage (R137): `k` bytes have been read, and what has been produced, with the open record, is
their encoding. -/
structure RunLengthEncoded (i : Instr) (st : Stage) (p : Params) (x : ByteSeq) (k : Nat) (t : State) : Prop
    extends InStage i st p x t where
  kind : st.kind = .renc
  rp : t.rp = k
  no_run_iff : t.cnt = 0#8 ↔ k = 0
  encoded : ∃ out, t.Produced st.dst out ∧ out ++ t.openRecord = rleEncode (x.take k)

/-- The end of a `RENC` stage: the source is read and no run open. -/
structure RunLengthEncodeEnd (i : Instr) (st : Stage) (p : Params) (x : ByteSeq) (t : State) : Prop
    extends InStage i st p x t where
  kind : st.kind = .renc
  rp : t.rp = x.length
  no_run : t.cnt = 0#8
  encoded : t.Produced st.dst (rleEncode x)

/-- The machine is about to take the step that emits a record across the capacity (R136). -/
structure EmitOverflows (st : Stage) (p : Params) (t : State) : Prop where
  run : t.cnt ≠ 0#8
  full : indexFits (t.wp + 1) (Params.cap p st.dst) = false
  raises : step t = .next (afterCapacityError t)

section
variable {i : Instr} {st : Stage} {p : Params} {s t : State} {x : ByteSeq} {k : Nat}

theorem RunLengthEncoded.step_eq_rencStep (h : RunLengthEncoded i st p x k t) : step t = rencStep i st t := by
  rw [h.step_eq, stageStep, h.kind]

theorem RunLengthEncoded.rp_lt (h : RunLengthEncoded i st p x k t) (hk : k < x.length) : t.rp < t.slen := by
  rw [h.rp, h.slen]
  exact hk

theorem RunLengthEncoded.memRead_rp (h : RunLengthEncoded i st p x k t) (hk : k < x.length) :
    t.memRead st.src t.rp = some x[k] := by
  rw [h.rp]
  exact h.memRead_src hk

/-- With its open record the stage needs as much room as the encoding of what has been read. -/
theorem RunLengthEncoded.indexFits_eq (h : RunLengthEncoded i st p x k t) (hc : t.cnt ≠ 0#8) (c : Option Nat) :
    indexFits (t.wp + 1) c = lengthWithin (rleEncode (x.take k)).length c := by
  obtain ⟨out, hout, henc⟩ := h.encoded
  rw [← henc, State.openRecord_of_run hc, hout.wp_eq, ← lengthWithin_succ]
  simp

theorem RunLengthEncoded.hasRoom_eq (h : RunLengthEncoded i st p x k t) :
    t.hasRoom st.dst (t.wp + 1) = indexFits (t.wp + 1) (Params.cap p st.dst) := by
  rw [State.hasRoom, h.params]

/-- The first byte opens a run. -/
theorem RunLengthEncoded.step_open (h : RunLengthEncoded i st p x k t) (hk : k < x.length) (hc : t.cnt = 0#8) :
    ∃ u, step t = .next u ∧ RunLengthEncoded i st p x (k + 1) u := by
  refine ⟨_, h.step_eq_rencStep.trans (rencStep_of_opening (h.rp_lt hk) (h.memRead_rp hk) hc), ?_⟩
  obtain ⟨out, hout, henc⟩ := h.encoded
  obtain rfl := h.no_run_iff.1 hc
  rw [State.openRecord_of_none hc] at henc
  obtain rfl : out = [] := (List.append_nil out).symm.trans henc
  refine { h.openRun _ with
    kind := h.kind, rp := congrArg (· + 1) h.rp, no_run_iff := by simp, encoded := ⟨[], hout, ?_⟩ }
  rw [List.take_succ_eq_append_getElem hk, List.take_zero]
  exact (rleEncode_singleton x[0]).symm

/-- A byte of the open run lengthens it. -/
theorem RunLengthEncoded.step_grow (h : RunLengthEncoded i st p x k t) (hk : k < x.length) (hc : t.cnt ≠ 0#8)
    (hcur : x[k] = t.cur) (hm : t.cnt.toNat < 255) : ∃ u, step t = .next u ∧ RunLengthEncoded i st p x (k + 1) u := by
  have hne := runLength_add_one_ne_zero hm
  refine ⟨_, h.step_eq_rencStep.trans (rencStep_of_growing (h.rp_lt hk) (hcur ▸ h.memRead_rp hk) hc hm), ?_⟩
  obtain ⟨out, hout, henc⟩ := h.encoded
  rw [State.openRecord_of_run hc] at henc
  refine { h.growRun with
    kind := h.kind, rp := congrArg (· + 1) h.rp, no_run_iff := by simp [hne], encoded := ⟨out, hout, ?_⟩ }
  rw [List.take_succ_eq_append_getElem hk, hcur, rleEncode_grow henc.symm hm]
  exact congrArg (out ++ ·) (State.openRecord_of_run hne)

/-- Any other byte turns the open run into a record and opens the next run. -/
theorem RunLengthEncoded.step_turn (h : RunLengthEncoded i st p x k t) (hk : k < x.length) (hc : t.cnt ≠ 0#8)
    (hm : ¬(x[k] = t.cur ∧ t.cnt.toNat < 255)) (hroom : indexFits (t.wp + 1) (Params.cap p st.dst) = true) :
    ∃ u, step t = .next u ∧ RunLengthEncoded i st p x (k + 1) u := by
  refine ⟨(t.pushRecord st.dst).openRun x[k], ?_, ?_⟩
  · rw [h.step_eq_rencStep, rencStep_of_turning (h.rp_lt hk) (h.memRead_rp hk) hc hm,
      emitThen_of_room (h.hasRoom_eq.trans hroom)]
  · obtain ⟨out, hout, henc⟩ := h.encoded
    rw [State.openRecord_of_run hc] at henc
    refine { h.pushRecord.openRun _ with
      kind := h.kind, rp := congrArg (· + 1) ((t.pushRecord_rp st.dst).trans h.rp), no_run_iff := by simp
      encoded := ⟨_, hout.pushRecord, ?_⟩ }
    rw [List.take_succ_eq_append_getElem hk, rleEncode_turn henc.symm hm]
    rfl

/-- The stage reads one more byte, or emits across the capacity. -/
theorem RunLengthEncoded.step_next (h : RunLengthEncoded i st p x k t) (hk : k < x.length) :
    (∃ u, step t = .next u ∧ RunLengthEncoded i st p x (k + 1) u) ∨ EmitOverflows st p t := by
  by_cases hc : t.cnt = 0#8
  · exact .inl (h.step_open hk hc)
  by_cases hm : x[k] = t.cur ∧ t.cnt.toNat < 255
  · exact .inl (h.step_grow hk hc hm.1 hm.2)
  cases hroom : indexFits (t.wp + 1) (Params.cap p st.dst) with
  | true => exact .inl (h.step_turn hk hc hm hroom)
  | false =>
    refine .inr ⟨hc, hroom, ?_⟩
    rw [h.step_eq_rencStep, rencStep_of_turning (h.rp_lt hk) (h.memRead_rp hk) hc hm,
      emitThen_of_full (h.hasRoom_eq.trans hroom)]

theorem RunLengthEncoded.step_closing (h : RunLengthEncoded i st p x x.length t) (hc : t.cnt ≠ 0#8) :
    step t = .next (emitThen st State.closeRun t) :=
  h.step_eq_rencStep.trans (rencStep_of_closing (by simp [h.rp, h.slen]) hc)

/-- After the last byte the open run is emitted. -/
theorem RunLengthEncoded.step_close (h : RunLengthEncoded i st p x x.length t) (hc : t.cnt ≠ 0#8)
    (hroom : indexFits (t.wp + 1) (Params.cap p st.dst) = true) :
    ∃ u, step t = .next u ∧ RunLengthEncodeEnd i st p x u := by
  refine ⟨_, (h.step_closing hc).trans (by rw [emitThen_of_room (h.hasRoom_eq.trans hroom)]), ?_⟩
  obtain ⟨out, hout, henc⟩ := h.encoded
  rw [State.openRecord_of_run hc, List.take_length] at henc
  exact { h.pushRecord.closeRun with
    kind := h.kind, rp := (t.pushRecord_rp st.dst).trans h.rp, no_run := rfl, encoded := henc ▸ hout.pushRecord }

theorem RunLengthEncoded.closing_overflows (h : RunLengthEncoded i st p x x.length t) (hc : t.cnt ≠ 0#8)
    (hfull : indexFits (t.wp + 1) (Params.cap p st.dst) = false) : EmitOverflows st p t :=
  ⟨hc, hfull, (h.step_closing hc).trans (by rw [emitThen_of_full (h.hasRoom_eq.trans hfull)])⟩

/-- No emit crosses the capacity if the whole encoding fits. -/
theorem RunLengthEncoded.not_emitOverflows (h : RunLengthEncoded i st p x k t)
    (hfit : lengthWithin (rleEncode x).length (Params.cap p st.dst) = true) : ¬EmitOverflows st p t := by
  intro ho
  have hfull := ho.full
  rw [h.indexFits_eq ho.run, lengthWithin_mono hfit (length_rleEncode_take_le x k)] at hfull
  cases hfull

theorem RunLengthEncoded.run_of_ne_nil (h : RunLengthEncoded i st p x x.length t) (hx : x ≠ []) : t.cnt ≠ 0#8 :=
  fun hc => hx (List.length_eq_zero_iff.1 (h.no_run_iff.1 hc))

/-- Over an empty source the stage starts at its end. -/
theorem RunLengthEncoded.end_of_nil (h : RunLengthEncoded i st p [] 0 t) : RunLengthEncodeEnd i st p [] t := by
  have hc : t.cnt = 0#8 := h.no_run_iff.2 rfl
  obtain ⟨out, hout, henc⟩ := h.encoded
  rw [State.openRecord_of_none hc, List.append_nil] at henc
  exact { h with no_run := hc, encoded := henc ▸ hout }

theorem RunLengthEncodeEnd.step_end (h : RunLengthEncodeEnd i st p x t) : step t = .next (afterStageDone i t) := by
  rw [h.step_eq, stageStep, h.kind]
  exact rencStep_of_end (by simp [h.rp, h.slen]) h.no_run

theorem StageStart.runLengthEncoded_zero (h : StageStart i st s) (hkind : st.kind = .renc)
    (hx : (s.buffer st.src).readSeq 0 s.slen = some x) : RunLengthEncoded i st s.params x 0 s := by
  have ⟨_, _, _, _, hrp, hwp, _, _, hcnt, _⟩ := h
  exact { StageStart.inStage h hx with
    kind := hkind, rp := hrp, no_run_iff := by simp [hcnt]
    encoded := ⟨[], by rw [State.Produced, hwp]; rfl, State.openRecord_of_none hcnt⟩ }

/-- A `RENC` stage reads `k` bytes, or emits across the capacity before that. -/
theorem StageStart.runLengthEncoded (h : StageStart i st s) (hkind : st.kind = .renc)
    (hx : (s.buffer st.src).readSeq 0 s.slen = some x) (hk : k ≤ x.length) :
    (∃ t, runSteps k s = .next t ∧ RunLengthEncoded i st s.params x k t) ∨
    ∃ j u, j < k ∧ runSteps j s = .next u ∧ RunLengthEncoded i st s.params x j u ∧ EmitOverflows st s.params u := by
  induction k with
  | zero => exact .inl ⟨s, rfl, StageStart.runLengthEncoded_zero h hkind hx⟩
  | succ k ih =>
    obtain ⟨t, ht, henc⟩ | ⟨j, u, hj, hu⟩ := ih (by omega)
    · obtain ⟨u, hu, henc'⟩ | hover := henc.step_next hk
      · exact .inl ⟨u, runSteps_snoc ht hu, henc'⟩
      · exact .inr ⟨k, t, Nat.lt_succ_self k, ht, henc, hover⟩
    · exact .inr ⟨j, u, by omega, hu⟩

/-- Once the machine is not BUSY, further steps change nothing (R184). -/
theorem runSteps_le {j : Nat} (hs : s.script = []) (hd : decode s.cmd = .ok i) (hj : runSteps j s = .next t)
    (ht : t.state ≠ .busy) (hk : j ≤ k) : runSteps k s = .next t := by
  rw [runSteps_eq_runCore _ hs hd] at hj ⊢
  exact runCore_le hj ht hk

/-- As long as the stage is BUSY it keeps its invariant. -/
theorem StageStart.runLengthEncoded_of_busy (h : StageStart i st s) (hkind : st.kind = .renc)
    (hx : (s.buffer st.src).readSeq 0 s.slen = some x) (hk : k ≤ x.length) (ht : runSteps k s = .next t)
    (hb : t.state = .busy) : RunLengthEncoded i st s.params x k t := by
  obtain ⟨u, hu, henc⟩ | ⟨j, u, hj, hu, -, hover⟩ := StageStart.runLengthEncoded h hkind hx hk
  · cases ht.symm.trans hu
    exact henc
  · obtain ⟨hscript, _, hdec, _⟩ := h
    cases ht.symm.trans (runSteps_le hscript hdec (runSteps_snoc hu hover.raises) (by simp) hj)
    cases hb

/-- A `RENC` stage whose result fits comes to its end. -/
theorem StageStart.runLengthEncodeEnd (h : StageStart i st s) (hkind : st.kind = .renc)
    (hx : (s.buffer st.src).readSeq 0 s.slen = some x)
    (hfit : lengthWithin (rleEncode x).length (Params.cap s.params st.dst) = true) :
    ∃ u, runSteps (if x = [] then 0 else x.length + 1) s = .next u ∧ RunLengthEncodeEnd i st s.params x u := by
  obtain ⟨t, ht, henc⟩ | ⟨j, u, -, -, henc, hover⟩ := StageStart.runLengthEncoded h hkind hx (Nat.le_refl _)
  · split
    · subst x
      exact ⟨t, ht, henc.end_of_nil⟩
    · have hc := henc.run_of_ne_nil ‹_›
      obtain ⟨u, hu, hend⟩ := henc.step_close hc (by rw [henc.indexFits_eq hc, List.take_length, hfit])
      exact ⟨u, runSteps_snoc ht hu, hend⟩
  · exact absurd hover (henc.not_emitOverflows hfit)

/-- A `RENC` stage whose result does not fit comes to an emit that crosses the capacity. -/
theorem StageStart.emitOverflows (h : StageStart i st s) (hkind : st.kind = .renc)
    (hx : (s.buffer st.src).readSeq 0 s.slen = some x)
    (hfull : lengthWithin (rleEncode x).length (Params.cap s.params st.dst) = false) :
    ∃ k u, k ≤ x.length ∧ runSteps k s = .next u ∧ EmitOverflows st s.params u := by
  obtain ⟨t, ht, henc⟩ | ⟨j, u, hj, hu, -, hover⟩ := StageStart.runLengthEncoded h hkind hx (Nat.le_refl _)
  · have hne : x ≠ [] := by
      rintro rfl
      cases hcap : Params.cap s.params st.dst <;> simp [hcap, lengthWithin] at hfull
    have hc := henc.run_of_ne_nil hne
    exact ⟨x.length, t, Nat.le_refl _, ht,
      henc.closing_overflows hc (by rw [henc.indexFits_eq hc, List.take_length, hfull])⟩
  · exact ⟨j, u, hj.le, hu, hover⟩

end

/-- Settles O24: the stage keeps its invariant up to its end or to the emit that crosses the capacity. -/
theorem runLengthEncodeStageResult : Obligations.RunLengthEncodeStageResult := by
  intro i src dst s x hstart hx
  refine ⟨fun k t hk ht hb => ?_, fun hfit => ?_, fun hfull => ?_⟩
  · have henc := StageStart.runLengthEncoded_of_busy hstart rfl hx hk ht hb
    exact ⟨henc.rp, henc.encoded⟩
  · obtain ⟨u, hu, hend⟩ := StageStart.runLengthEncodeEnd hstart rfl hx hfit
    exact ⟨u, hu, hend.encoded.wp_eq, hend.encoded, runSteps_snoc hu hend.step_end⟩
  · obtain ⟨k, u, hk, hu, hover⟩ := StageStart.emitOverflows hstart rfl hx hfull
    exact ⟨k, u, hk, hu, hover.full, runSteps_snoc hu hover.raises⟩

end Sys2Proof.Machine

/-! # `rleDecode` (R150 to R156)

A stream of even length is a sequence of records; its decoding is what they spell out, and it is canonical exactly when
they are greedy. -/

namespace Sys2Proof.Machine

/-- The decoder spells out the records one after the other, an empty run included (R150, R154). -/
@[simp] theorem rleDecode_recordBytes (recs : List Record) : rleDecode (recordBytes recs) = some (recordRuns recs) := by
  induction recs with
  | nil => rfl
  | cons r recs ih =>
    obtain ⟨v, n⟩ := r
    rw [recordBytes_cons, rleDecode_record, ih, recordRuns_cons, Option.map_some]

/-- A stream without an odd byte is made of records. -/
theorem exists_recordBytes {s : ByteSeq} (h : s.length % 2 = 0) : ∃ recs, recordBytes recs = s := by
  match s with
  | [] => exact ⟨[], rfl⟩
  | [_] => cases h
  | v :: n :: s =>
    obtain ⟨recs, rfl⟩ := exists_recordBytes (s := s) (by simp only [List.length_cons] at h; omega)
    exact ⟨(v, n) :: recs, rfl⟩

/-- The only error of the decoder is the odd length (R151, R152). -/
theorem rleDecode_eq_none_iff (s : ByteSeq) : rleDecode s = none ↔ s.length % 2 = 1 := by
  match s with
  | [] => simp
  | [_] => simp
  | v :: n :: s =>
    rw [rleDecode_record, Option.map_eq_none_iff, rleDecode_eq_none_iff s, List.length_cons, List.length_cons]
    omega

/-- What decodes is a sequence of records, and its decoding is what they spell out. -/
theorem exists_records_of_rleDecode {s y : ByteSeq} (h : rleDecode s = some y) :
    ∃ recs, recordBytes recs = s ∧ recordRuns recs = y := by
  have heven : s.length % 2 = 0 := by
    have := mt (rleDecode_eq_none_iff s).2 (by simp [h])
    omega
  obtain ⟨recs, rfl⟩ := exists_recordBytes heven
  exact ⟨recs, rfl, Option.some.inj ((rleDecode_recordBytes recs).symm.trans h)⟩

/-- Settles O58: by induction on the records, and on the stream two bytes at a time. -/
theorem runLengthDecodeByRecords : Obligations.RunLengthDecodeByRecords :=
  ⟨rleDecode_recordBytes, rleDecode_eq_none_iff⟩

/-- The decoder undoes the encoder (R156). -/
theorem rleDecode_rleEncode (x : ByteSeq) : rleDecode (rleEncode x) = some x := by
  obtain ⟨recs, -, rfl, henc⟩ := rleEncode_eq_recordBytes x
  rw [henc, rleDecode_recordBytes]

/-- The records of a canonical stream are greedy. -/
theorem GreedyRecords.of_canonical {recs : List Record} (h : canonical (recordBytes recs)) : GreedyRecords recs := by
  obtain ⟨-, hpos, hfull⟩ := h
  refine ⟨fun r hr => ?_, List.isChain_iff_getElem.2 fun j hj hval => ?_⟩
  · obtain ⟨j, hj⟩ := List.mem_iff_getElem?.1 hr
    exact hpos j r.2 (by rw [recordBytes_getElem?_odd, hj, Option.map_some])
  · have hlen : (recordBytes recs)[2 * j + 1]? = some 255#8 := by
      refine hfull j recs[j].1 ?_ ?_
      · rw [recordBytes_getElem?_even, List.getElem?_eq_getElem, Option.map_some]
      · rw [show 2 * j + 2 = 2 * (j + 1) from rfl, recordBytes_getElem?_even, List.getElem?_eq_getElem hj,
          Option.map_some, hval]
    rw [recordBytes_getElem?_odd, List.getElem?_eq_getElem (by omega)] at hlen
    exact Option.some.inj hlen

/-- R132 (a) to (c) are the three conditions of R156. -/
theorem canonical_rleEncode (x : ByteSeq) : canonical (rleEncode x) := by
  obtain ⟨heven, hpos, hfull, -⟩ := runLengthEncodeShape x
  refine ⟨heven, fun j n hn hzero => ?_, hfull⟩
  subst hzero
  exact absurd (hpos j 0#8 hn).1 (by decide)

/-- A canonical stream is the encoding of its decoding. -/
theorem canonical.rleEncode_of_rleDecode {s x : ByteSeq} (h : canonical s) (hx : rleDecode s = some x) :
    rleEncode x = s := by
  obtain ⟨recs, rfl, rfl⟩ := exists_records_of_rleDecode hx
  exact (GreedyRecords.of_canonical h).rleEncode_recordRuns

theorem canonical_iff_exists_rleEncode (s : ByteSeq) : canonical s ↔ ∃ x, s = rleEncode x := by
  constructor
  · intro h
    obtain ⟨recs, rfl⟩ := exists_recordBytes h.1
    exact ⟨_, (h.rleEncode_of_rleDecode (rleDecode_recordBytes recs)).symm⟩
  · rintro ⟨x, rfl⟩
    exact canonical_rleEncode x

/-- Settles O59: canonical streams are those of greedy records, which the encoder gives back. -/
theorem canonicalStreams : Obligations.CanonicalStreams := by
  refine ⟨fun s => (canonical_iff_exists_rleEncode s).symm, rleDecode_rleEncode, fun s x hx => ⟨?_, fun h => ?_⟩,
    fun s t hs ht => ?_, ?_⟩
  · rintro rfl
    exact canonical_rleEncode x
  · exact h.rleEncode_of_rleDecode hx
  · obtain ⟨recs, rfl⟩ := exists_recordBytes hs
    obtain ⟨recs', rfl⟩ := exists_recordBytes ht
    rw [← recordBytes_append]
    simp only [rleDecode_recordBytes, recordRuns_append, Option.bind_some, Option.map_some]
  · rintro s (rfl | rfl | rfl | rfl) <;> rfl

end Sys2Proof.Machine

/-! # An `RDEC` step (R157) -/

namespace Sys2Proof.Machine

section
variable {i : Instr} {st : Stage} {s : State}

/-- An `RDEC` step with copies pending writes one of them (R157). -/
theorem rdecStep_of_pending (hc : 0 < s.rem.toNat) : rdecStep i st s = .next (expand st s) := by
  simp only [rdecStep, State.copiesPending, hc, decide_true, if_true]

/-- An `RDEC` step with no copies pending takes the next record (R157). -/
theorem rdecStep_of_record {v n : Byte} (hc : s.rem = 0#8) (hl : s.rp < s.slen) (hv : s.memRead st.src s.rp = some v)
    (hn : s.memRead st.src (s.rp + 1) = some n) : rdecStep i st s = .next (s.takeRecord v n) := by
  simp [rdecStep, State.copiesPending, State.sourceLeft, hc, hl, hv, hn]

/-- An `RDEC` step with no copies pending and no source left is `StageDone` (R157). -/
theorem rdecStep_of_end (hc : s.rem = 0#8) (hl : ¬s.rp < s.slen) : rdecStep i st s = .next (afterStageDone i s) := by
  rw [← stageDone_eq_afterStageDone]
  simp [rdecStep, State.copiesPending, State.sourceLeft, -not_lt, hc, hl]

theorem expand_of_room (h : s.hasRoom st.dst s.wp = true) : expand st s = (s.push st.dst s.val).countedOff := by
  rw [expand_eq, if_pos h]

theorem expand_of_full (h : s.hasRoom st.dst s.wp = false) : expand st s = afterCapacityError s := by
  rw [expand_eq, if_neg (by simp [h]), raise_eq_afterCapacityError]

/-- The count of pending copies does not wrap when one is counted off. -/
theorem toNat_rem_sub_one {n : Byte} (h : 0 < n.toNat) : (n - 1#8).toNat = n.toNat - 1 := by
  rw [BitVec.toNat_sub_of_le (x := n) (y := 1#8) h]
  rfl

/-- Every stage 0 reads IBUF, and no stage 1 decodes records (R180). -/
theorem activeStage_rdec (ha : activeStage i s = some st) (hk : st.kind = .rdec) : s.stg = 0 ∧ st.src = .ibuf := by
  rw [activeStage] at ha
  generalize s.stg = g at ha ⊢
  match g with
  | 0 =>
    refine ⟨rfl, ?_⟩
    cases i <;> cases ha <;> rfl
  | 1 =>
    exfalso
    cases i <;> cases ha <;> cases hk

/-- What the invariant says of SLEN (R30). -/
theorem slen_of_inv (h : s.Inv) (hb : s.state = .busy) (hd : decode s.cmd = .ok i) (ha : activeStage i s = some st) :
    s.slen = if s.stg = 0 then s.ilen else s.mlen := by
  obtain ⟨_, _, _, hbusy⟩ := h
  have hok := hbusy hb
  simp only [busyOk, hd, ha, Bool.and_eq_true, decide_eq_true_eq] at hok
  obtain ⟨⟨⟨⟨⟨⟨hslen, _⟩, _⟩, _⟩, _⟩, _⟩, _⟩ := hok
  exact hslen

end

/-- Settles O19: the step writes a copy, raises, takes a record, or is `StageDone`; under the invariant RP and SLEN are even. -/
theorem runLengthDecodeStep : Obligations.RunLengthDecodeStep := by
  intro i src dst s hs hb hd ha
  have hstep : step s = rdecStep i ⟨.rdec, src, dst⟩ s := step_eq_stageStep hs hb hd ha
  refine ⟨fun hc hroom => ?_, fun hc hfull => ?_, fun v n hc hl hv hn => ?_, fun hc hl => ?_, fun hinv => ?_⟩
  · have hrem : BitVec.ofNat 8 (s.rem.toNat - 1) = s.rem - 1#8 := by
      rw [← toNat_rem_sub_one hc, BitVec.ofNat_toNat, BitVec.setWidth_eq]
    refine ⟨(s.push dst s.val).countedOff, ?_, s.memRead_push dst _, s.writesOnly_push dst _, ?_⟩
    · rw [hstep, rdecStep_of_pending hc, expand_of_room (st := ⟨.rdec, src, dst⟩) hroom]
    · rw [hrem]
      cases dst <;> rfl
  · rw [hstep, rdecStep_of_pending hc, expand_of_full (st := ⟨.rdec, src, dst⟩) hfull]
  · rw [hstep, rdecStep_of_record hc hl hv hn, State.takeRecord]
  · rw [hstep, rdecStep_of_end hc hl]
  · obtain ⟨hstg, hsrc⟩ := activeStage_rdec ha rfl
    have hslen := slen_of_inv hinv hb hd ha
    obtain ⟨hlen, hrp⟩ : s.slen % 2 = 0 ∧ s.rp % 2 = 0 := of_decide_eq_true (kindOk_of_inv hinv hb hd ha)
    exact ⟨hsrc, by rw [hslen, if_pos hstg], hlen, by omega⟩

end Sys2Proof.Machine

/-! # An `RDEC` stage (R158)

The loop invariant is the rule's own: what has been written, with the pending copies, is the decoding of what has been
read. Every step takes a record or writes a byte, so that RP and WP count the steps. -/

namespace Sys2Proof.Machine

/-- What is carried over each of `n` steps holds after them, unless a state is met in which `Q` holds. -/
theorem runSteps_until {P : Nat → State → Prop} {Q : State → Prop} {n : Nat} {s : State} (hzero : P 0 s)
    (hstep : ∀ k t, k < n → P k t → (∃ u, step t = .next u ∧ P (k + 1) u) ∨ Q t) :
    (∃ t, runSteps n s = .next t ∧ P n t) ∨ ∃ k t, k < n ∧ runSteps k s = .next t ∧ P k t ∧ Q t := by
  induction n with
  | zero => exact .inl ⟨s, rfl, hzero⟩
  | succ n ih =>
    obtain ⟨t, ht, hP⟩ | ⟨k, t, hk, ht⟩ := ih fun k t hk => hstep k t (by omega)
    · obtain ⟨u, hu, hPu⟩ | hQ := hstep n t (Nat.lt_succ_self n) hP
      · exact .inl ⟨u, runSteps_snoc ht hu, hPu⟩
      · exact .inr ⟨n, t, Nat.lt_succ_self n, ht, hP, hQ⟩
    · exact .inr ⟨k, t, by omega, ht⟩

theorem lengthWithin_zero (c : Option Nat) : lengthWithin 0 c = true := by
  cases c with
  | none => rfl
  | some c => exact decide_eq_true (Nat.zero_le c)

theorem recordBytes_take (recs : List Record) (j : Nat) : recordBytes (recs.take j) = (recordBytes recs).take (2 * j) := by
  induction recs generalizing j with
  | nil => simp
  | cons r recs ih =>
    cases j with
    | zero => rfl
    | succ j => exact congrArg (r.1 :: r.2 :: ·) (ih j)

/-- The first records spell out no more than all of them. -/
theorem length_recordRuns_take_le (recs : List Record) (j : Nat) :
    (recordRuns (recs.take j)).length ≤ (recordRuns recs).length := by
  conv_rhs => rw [← List.take_append_drop j recs, recordRuns_append, List.length_append]
  exact Nat.le_add_right _ _

/-- One record more spells out its copies. -/
theorem recordRuns_take_succ {recs : List Record} {j : Nat} (hj : j < recs.length) :
    recordRuns (recs.take (j + 1)) = recordRuns (recs.take j) ++ List.replicate recs[j].2.toNat recs[j].1 := by
  rw [List.take_succ_eq_append_getElem hj, recordRuns_append, recordRuns_cons, recordRuns_nil, List.append_nil]

/-- How many records an `RDEC` stage has taken. -/
def State.recordsRead (s : State) : Nat := s.rp / 2

theorem State.recordsRead_takeRecord (s : State) (v n : Byte) : (s.takeRecord v n).recordsRead = s.recordsRead + 1 :=
  Nat.add_div_right s.rp Nat.two_pos

/-- The copies of VAL still to be written (R36). -/
def State.pendingCopies (s : State) : ByteSeq := List.replicate s.rem.toNat s.val

theorem State.pendingCopies_of_none {s : State} (h : s.rem = 0#8) : s.pendingCopies = [] := by
  rw [State.pendingCopies, h]
  rfl

/-- Counting off a copy leaves one less. -/
theorem State.pendingCopies_countedOff {s : State} (h : 0 < s.rem.toNat) :
    s.pendingCopies = s.val :: s.countedOff.pendingCopies := by
  rw [State.pendingCopies, State.pendingCopies, State.countedOff, toNat_rem_sub_one h, ← List.replicate_succ,
    Nat.sub_add_cancel h]

section
variable {i : Instr} {st : Stage} {p : Params} {t : State} {x : ByteSeq}

theorem InStage.countedOff (h : InStage i st p x t) : InStage i st p x t.countedOff := { h with }

theorem InStage.takeRecord (h : InStage i st p x t) (v n : Byte) : InStage i st p x (t.takeRecord v n) := { h with }

end

/-- The invariant of an `RDEC` stage (R158) after `k` steps: what has been produced, with the pending copies, is what the
records read spell out. -/
structure RunLengthDecoded (i : Instr) (st : Stage) (p : Params) (recs : List Record) (k : Nat) (t : State) : Prop
    extends InStage i st p (recordBytes recs) t where
  kind : st.kind = .rdec
  rp : t.rp = 2 * t.recordsRead
  recordsRead_le : t.recordsRead ≤ recs.length
  steps : t.recordsRead + t.wp = k
  within : lengthWithin t.wp (Params.cap p st.dst) = true
  expanded : ∃ out, t.Produced st.dst out ∧ out ++ t.pendingCopies = recordRuns (recs.take t.recordsRead)

/-- The machine is about to take the step that writes a copy at the capacity (R157). -/
structure ExpandOverflows (st : Stage) (p : Params) (t : State) : Prop where
  pending : 0 < t.rem.toNat
  full : indexFits t.wp (Params.cap p st.dst) = false
  raises : step t = .next (afterCapacityError t)

section
variable {i : Instr} {st : Stage} {p : Params} {s t : State} {recs : List Record} {k : Nat}

theorem RunLengthDecoded.step_eq_rdecStep (h : RunLengthDecoded i st p recs k t) : step t = rdecStep i st t := by
  rw [h.step_eq, stageStep, h.kind]

theorem RunLengthDecoded.slen_eq (h : RunLengthDecoded i st p recs k t) : t.slen = 2 * recs.length :=
  h.slen.trans (length_recordBytes recs)

theorem RunLengthDecoded.hasRoom_eq (h : RunLengthDecoded i st p recs k t) :
    t.hasRoom st.dst t.wp = indexFits t.wp (Params.cap p st.dst) := by
  rw [State.hasRoom, h.params]

/-- The value of the next record. -/
theorem RunLengthDecoded.memRead_value (h : RunLengthDecoded i st p recs k t) (hj : t.recordsRead < recs.length) :
    t.memRead st.src t.rp = some recs[t.recordsRead].1 := by
  rw [h.rp, State.memRead, Memory.read_of_readSeq h.source (by simp [hj]), recordBytes_getElem?_even,
    List.getElem?_eq_getElem hj, Option.map_some]

/-- The run length of the next record. -/
theorem RunLengthDecoded.memRead_length (h : RunLengthDecoded i st p recs k t) (hj : t.recordsRead < recs.length) :
    t.memRead st.src (t.rp + 1) = some recs[t.recordsRead].2 := by
  rw [h.rp, State.memRead, Memory.read_of_readSeq h.source (by rw [length_recordBytes]; omega), recordBytes_getElem?_odd,
    List.getElem?_eq_getElem hj, Option.map_some]

theorem RunLengthDecoded.wp_add_rem (h : RunLengthDecoded i st p recs k t) :
    t.wp + t.rem.toNat = (recordRuns (recs.take t.recordsRead)).length := by
  obtain ⟨out, hout, hdec⟩ := h.expanded
  rw [← hdec, hout.wp_eq, List.length_append, State.pendingCopies, List.length_replicate]

/-- What is still to be written fits the result. -/
theorem RunLengthDecoded.wp_add_rem_le (h : RunLengthDecoded i st p recs k t) :
    t.wp + t.rem.toNat ≤ (recordRuns recs).length :=
  h.wp_add_rem.trans_le (length_recordRuns_take_le recs _)

/-- With no copies pending there is a record left before the end. -/
theorem RunLengthDecoded.recordsRead_lt (h : RunLengthDecoded i st p recs k t) (hc : t.rem = 0#8)
    (hk : k < recs.length + (recordRuns recs).length) : t.recordsRead < recs.length := by
  by_contra hj
  have hwp := h.wp_add_rem
  rw [List.take_of_length_le (by omega), hc] at hwp
  have hsteps := h.steps
  have hle := h.recordsRead_le
  simp only [BitVec.toNat_ofNat, Nat.zero_mod] at hwp
  omega

/-- With no copies pending the next record is taken. -/
theorem RunLengthDecoded.step_take (h : RunLengthDecoded i st p recs k t) (hc : t.rem = 0#8)
    (hj : t.recordsRead < recs.length) : ∃ u, step t = .next u ∧ RunLengthDecoded i st p recs (k + 1) u := by
  have hl : t.rp < t.slen := by
    rw [h.rp, h.slen_eq]
    omega
  refine ⟨_, h.step_eq_rdecStep.trans (rdecStep_of_record hc hl (h.memRead_value hj) (h.memRead_length hj)), ?_⟩
  have hread := t.recordsRead_takeRecord recs[t.recordsRead].1 recs[t.recordsRead].2
  obtain ⟨out, hout, hdec⟩ := h.expanded
  rw [State.pendingCopies_of_none hc, List.append_nil] at hdec
  refine { h.takeRecord _ _ with
    kind := h.kind, within := h.within
    rp := by rw [hread, State.takeRecord_rp, h.rp]; rfl
    recordsRead_le := by rw [hread]; exact hj
    steps := by rw [hread, State.takeRecord_wp, ← h.steps, Nat.add_right_comm]
    expanded := ⟨out, hout, ?_⟩ }
  rw [hread, recordRuns_take_succ hj, hdec]
  rfl

/-- A pending copy is written where there is room. -/
theorem RunLengthDecoded.step_copy (h : RunLengthDecoded i st p recs k t) (hc : 0 < t.rem.toNat)
    (hroom : indexFits t.wp (Params.cap p st.dst) = true) :
    ∃ u, step t = .next u ∧ RunLengthDecoded i st p recs (k + 1) u := by
  refine ⟨(t.push st.dst t.val).countedOff, ?_, ?_⟩
  · rw [h.step_eq_rdecStep, rdecStep_of_pending hc, expand_of_room (h.hasRoom_eq.trans hroom)]
  have hrp : (t.push st.dst t.val).countedOff.rp = t.rp := t.memWrite_rp ..
  have hread : (t.push st.dst t.val).countedOff.recordsRead = t.recordsRead := congrArg (· / 2) hrp
  obtain ⟨out, hout, hdec⟩ := h.expanded
  refine { (h.push t.val).countedOff with
    kind := h.kind
    rp := by rw [hread, hrp, h.rp]
    recordsRead_le := by rw [hread]; exact h.recordsRead_le
    steps := by rw [hread, ← h.steps]; rfl
    within := (lengthWithin_succ ..).trans hroom
    expanded := ⟨_, hout.push t.val, ?_⟩ }
  rw [hread, ← hdec, State.pendingCopies_countedOff hc, List.append_assoc]
  simp [State.pendingCopies, State.countedOff, State.push]

/-- Before its end the stage takes a record, writes a copy, or is to write one at the capacity. -/
theorem RunLengthDecoded.step_next (h : RunLengthDecoded i st p recs k t)
    (hk : k < recs.length + (recordRuns recs).length) :
    (∃ u, step t = .next u ∧ RunLengthDecoded i st p recs (k + 1) u) ∨ ExpandOverflows st p t := by
  by_cases hc : t.rem = 0#8
  · exact .inl (h.step_take hc (h.recordsRead_lt hc hk))
  have hpos := BitVec.toNat_pos_of_ne_zero hc
  cases hroom : indexFits t.wp (Params.cap p st.dst) with
  | true => exact .inl (h.step_copy hpos hroom)
  | false =>
    refine .inr ⟨hpos, hroom, ?_⟩
    rw [h.step_eq_rdecStep, rdecStep_of_pending hpos, expand_of_full (h.hasRoom_eq.trans hroom)]

/-- No copy is written at the capacity if the whole result fits. -/
theorem RunLengthDecoded.not_expandOverflows (h : RunLengthDecoded i st p recs k t)
    (hfit : lengthWithin (recordRuns recs).length (Params.cap p st.dst) = true) : ¬ExpandOverflows st p t := by
  rintro ⟨hpending, hfull, -⟩
  have hle := h.wp_add_rem_le
  rw [indexFits_of_lengthWithin hfit (by omega)] at hfull
  cases hfull

/-- The copy that is written at the capacity is the first one beyond it. -/
theorem RunLengthDecoded.wp_eq_cap (h : RunLengthDecoded i st p recs k t) (ho : ExpandOverflows st p t) {c : Nat}
    (hcap : Params.cap p st.dst = some c) : t.wp = c := by
  have hwithin := h.within
  have hfull := ho.full
  rw [hcap] at hwithin hfull
  exact Nat.le_antisymm (of_decide_eq_true hwithin) (Nat.le_of_not_lt (of_decide_eq_false hfull))

/-- After as many steps as there are records and bytes, all of both are done. -/
theorem RunLengthDecoded.all_done (h : RunLengthDecoded i st p recs (recs.length + (recordRuns recs).length) t) :
    t.recordsRead = recs.length ∧ t.wp = (recordRuns recs).length ∧ t.rem.toNat = 0 := by
  have hread := h.recordsRead_le
  have hsteps := h.steps
  have hle := h.wp_add_rem_le
  omega

theorem RunLengthDecoded.produced_all (h : RunLengthDecoded i st p recs (recs.length + (recordRuns recs).length) t) :
    t.Produced st.dst (recordRuns recs) := by
  obtain ⟨hread, -, hrem⟩ := h.all_done
  obtain ⟨out, hout, hdec⟩ := h.expanded
  rw [State.pendingCopies, hrem, List.replicate_zero, List.append_nil, hread, List.take_length] at hdec
  exact hdec ▸ hout

theorem RunLengthDecoded.step_end (h : RunLengthDecoded i st p recs (recs.length + (recordRuns recs).length) t) :
    step t = .next (afterStageDone i t) := by
  obtain ⟨hread, -, hrem⟩ := h.all_done
  rw [h.step_eq_rdecStep]
  exact rdecStep_of_end (BitVec.eq_of_toNat_eq hrem) (by rw [h.rp, h.slen_eq, hread]; exact Nat.lt_irrefl _)

/-- What has been produced, with the pending copies, is the decoding of the bytes before RP (R158). -/
theorem RunLengthDecoded.rleDecode_take (h : RunLengthDecoded i st p recs k t) :
    ∃ out, t.Produced st.dst out ∧ rleDecode ((recordBytes recs).take t.rp) = some (out ++ t.pendingCopies) := by
  obtain ⟨out, hout, hdec⟩ := h.expanded
  exact ⟨out, hout, by rw [h.rp, ← recordBytes_take, rleDecode_recordBytes, hdec]⟩

theorem StageStart.runLengthDecoded_zero (h : StageStart i st s) (hkind : st.kind = .rdec)
    (hx : (s.buffer st.src).readSeq 0 s.slen = some (recordBytes recs)) : RunLengthDecoded i st s.params recs 0 s := by
  have ⟨_, _, _, _, hrp, hwp, _, _, _, hrem⟩ := h
  have hread : s.recordsRead = 0 := by rw [State.recordsRead, hrp]
  exact { StageStart.inStage h hx with
    kind := hkind
    rp := by rw [hread, hrp]
    recordsRead_le := by rw [hread]; exact Nat.zero_le _
    steps := by rw [hread, hwp]
    within := by rw [hwp, lengthWithin_zero]
    expanded := ⟨[], by rw [State.Produced, hwp]; rfl, by rw [State.pendingCopies_of_none hrem, hread]; rfl⟩ }

/-- An `RDEC` stage takes `k` steps, or is to write a copy at the capacity before that. -/
theorem StageStart.runLengthDecoded (h : StageStart i st s) (hkind : st.kind = .rdec)
    (hx : (s.buffer st.src).readSeq 0 s.slen = some (recordBytes recs))
    (hk : k ≤ recs.length + (recordRuns recs).length) :
    (∃ t, runSteps k s = .next t ∧ RunLengthDecoded i st s.params recs k t) ∨
    ∃ j u, j < k ∧ runSteps j s = .next u ∧ RunLengthDecoded i st s.params recs j u ∧
      ExpandOverflows st s.params u :=
  runSteps_until (StageStart.runLengthDecoded_zero h hkind hx) fun _ _ hj ht => ht.step_next (by omega)

/-- As long as the stage is BUSY it keeps its invariant. -/
theorem StageStart.runLengthDecoded_of_busy (h : StageStart i st s) (hkind : st.kind = .rdec)
    (hx : (s.buffer st.src).readSeq 0 s.slen = some (recordBytes recs))
    (hk : k ≤ recs.length + (recordRuns recs).length) (ht : runSteps k s = .next t) (hb : t.state = .busy) :
    RunLengthDecoded i st s.params recs k t := by
  obtain ⟨u, hu, hdec⟩ | ⟨j, u, hj, hu, -, hover⟩ := StageStart.runLengthDecoded h hkind hx hk
  · cases ht.symm.trans hu
    exact hdec
  · obtain ⟨hscript, _, hcmd, _⟩ := h
    cases ht.symm.trans (runSteps_le hscript hcmd (runSteps_snoc hu hover.raises) (by simp) hj)
    cases hb

end

/-- Settles O25: the stage keeps its invariant up to its end or to the copy that would be written at the capacity. -/
theorem runLengthDecodeStageResult : Obligations.RunLengthDecodeStageResult := by
  intro i src dst s x y hstart hx hy
  obtain ⟨recs, rfl, rfl⟩ := exists_records_of_rleDecode hy
  rw [length_recordBytes, Nat.mul_div_cancel_left _ Nat.two_pos]
  have hrun := StageStart.runLengthDecoded hstart rfl hx (Nat.le_refl _)
  refine ⟨fun k t hk ht hb => ?_, fun hfit => ?_, fun c hcap hc => ?_⟩
  · exact (StageStart.runLengthDecoded_of_busy hstart rfl hx hk ht hb).rleDecode_take
  · obtain ⟨u, hu, hdec⟩ | ⟨_, _, _, _, hdec, hover⟩ := hrun
    · exact ⟨u, hu, hdec.produced_all.wp_eq, hdec.produced_all, runSteps_snoc hu hdec.step_end⟩
    · exact absurd hover (hdec.not_expandOverflows hfit)
  · obtain ⟨u, -, hdec⟩ | ⟨k, u, hk, hu, hdec, hover⟩ := hrun
    · have hwithin := hdec.within
      rw [hdec.produced_all.wp_eq, hcap] at hwithin
      exact absurd (of_decide_eq_true hwithin) (Nat.not_le_of_lt hc)
    · exact ⟨k, u, hk, hu, hdec.wp_eq_cap hover hcap, hover.pending, runSteps_snoc hu hover.raises⟩

end Sys2Proof.Machine

/-! # Host operations (R178, R186 to R193)

The step of a host operation is that operation in the state without its event; one equation per operation and case says
what it does there. -/

namespace Sys2Proof.Machine

theorem step_host {op : HostOp} {rest : List Event} {s : State} (hs : s.script = .host op :: rest) :
    step s = hostOp op { s with script := rest } := by
  rw [step, hs]
  rfl

theorem unlessBusy_of_not_busy {s : State} (hb : s.state ≠ .busy) (write : State → State) :
    unlessBusy write s = write s := if_neg hb

section
variable {s : State} (a : Nat) (b : Byte)

theorem hostWriteIbuf_of_room (hb : s.state ≠ .busy) (hroom : indexFits a s.params.icap = true) :
    hostWriteIbuf a b s = s.memWrite .ibuf a b := by
  rw [hostWriteIbuf, unlessBusy_of_not_busy hb, if_pos (show s.hasRoom .ibuf a = true from hroom)]

theorem hostWriteIbuf_ignored (h : s.state = .busy ∨ indexFits a s.params.icap = false) : hostWriteIbuf a b s = s := by
  rw [hostWriteIbuf, unlessBusy]
  split
  · rfl
  · have hfull : s.hasRoom .ibuf a = false := h.resolve_left ‹_›
    rw [hfull]
    rfl

/-- `H_WRITE_IBUF` changes IBUF at most. -/
theorem hostWriteIbuf_frame (s : State) : hostWriteIbuf a b s = { s with ibuf := (hostWriteIbuf a b s).ibuf } := by
  by_cases h : s.state = .busy ∨ indexFits a s.params.icap = false
  · rw [hostWriteIbuf_ignored a b h]
  · rw [not_or, Bool.not_eq_false] at h
    rw [hostWriteIbuf_of_room a b h.1 h.2]
    rfl

end

/-- Settles O6: the byte is written, or the write is ignored. -/
theorem hostWritesInputByte : Obligations.HostWritesInputByte := by
  intro s a b rest hs
  refine ⟨hostWriteIbuf a b { s with script := rest }, step_host hs, hostWriteIbuf_frame a b _, fun hb hroom => ?_,
    fun h => by rw [hostWriteIbuf_ignored (s := { s with script := rest }) a b h]⟩
  rw [hostWriteIbuf_of_room (s := { s with script := rest }) a b hb hroom]
  exact ⟨Memory.read_write_same .., fun sp' a' h =>
    State.memRead_memWrite_other _ b fun ⟨hsp, ha⟩ => h ⟨hsp, by omega⟩⟩

theorem hostOp_writeIlen {s : State} {n : Nat} (h : s.params.lengthFits n = true) :
    hostOp (.writeIlen n) s = .next (hostWriteIlen n s) := if_pos h

theorem hostWriteIlen_eq (n : Nat) (s : State) :
    hostWriteIlen n s = { s with ilen := if s.state = .busy then s.ilen else n } := by
  unfold hostWriteIlen unlessBusy
  split <;> rfl

theorem hostWriteCmd_eq (c : Cmd) (s : State) :
    hostWriteCmd c s = { s with cmd := if s.state = .busy then s.cmd else c } := by
  unfold hostWriteCmd unlessBusy
  split <;> rfl

/-- Settles O7: the write of ILEN, by whether the machine is BUSY. -/
theorem hostWritesInputLength : Obligations.HostWritesInputLength := by
  intro s n rest hs hn
  rw [step_host hs, hostOp_writeIlen (s := { s with script := rest }) hn, hostWriteIlen_eq]

/-- Settles O9: the write of CMD, by whether the machine is BUSY. -/
theorem hostWritesCommand : Obligations.HostWritesCommand := by
  intro s c rest hs
  rw [step_host hs]
  exact congrArg Host.Outcome.next (hostWriteCmd_eq c _)

/-- Settles O11: the read notes the word and changes nothing else. -/
theorem hostReadsStatus : Obligations.HostReadsStatus := fun _ _ hs => step_host hs

/-- Settles O14: the reads note the registers and change nothing else. -/
theorem hostReadsCommandAndLength : Obligations.HostReadsCommandAndLength := fun _ _ => ⟨step_host, step_host⟩

/-- A free length is within the width of the register (R13, R191). -/
theorem lengthFits_freeLength (s : State) : s.params.lengthFits s.freeLength = true := by
  cases hw : s.params.lenW with
  | none => simp only [Params.lengthFits, hw]
  | some w =>
    simp only [Params.lengthFits, State.freeLength, hw]
    exact decide_eq_true (Nat.mod_lt _ (Nat.two_pow_pos w))

theorem hostReadOlen_of_not_busy {s : State} (hb : s.state ≠ .busy) : hostReadOlen s = s.answer (.olen s.olen) := if_neg hb

/-- In DONE the result is written, and OLEN is its length (R23). -/
theorem exists_result_of_inv {s : State} (h : s.Inv) (hdone : s.state = .done) :
    ∃ y, s.result = some y ∧ s.olen = y.length := by
  obtain ⟨_, _, ⟨_, _, hresult⟩, _⟩ := h
  obtain ⟨y, hy⟩ := Option.isSome_iff_exists.1 (hresult hdone).1
  exact ⟨y, hy, (Memory.length_of_readSeq hy).symm⟩

/-- Settles O12: the read notes OLEN, or a free length while BUSY; the invariant says what OLEN is. -/
theorem hostReadsOutputLength : Obligations.HostReadsOutputLength := by
  intro s rest hs
  rw [step_host hs]
  refine ⟨fun hb => ?_, fun hb => ⟨s.freeLength, lengthFits_freeLength s, ?_⟩, fun hinv hstate => ?_,
    exists_result_of_inv⟩
  · exact congrArg Host.Outcome.next (hostReadOlen_of_not_busy hb)
  · exact congrArg Host.Outcome.next (hostReadOlen_of_busy hb)
  · obtain ⟨_, _, ⟨_, holen, _⟩, _⟩ := hinv
    exact holen (by rcases hstate with h | h <;> simp [h])

section
variable {s : State} {a : Nat}

theorem hostReadObuf_of_byte {b : Byte} (h : s.resultByte a = some b) : hostReadObuf a s = s.answer (.obuf a b) := by
  rw [hostReadObuf, h]

theorem hostReadObuf_of_none (h : s.resultByte a = none) :
    hostReadObuf a s = (s.answer (.obuf a (Config.freeByte s.draws))).drawn := by
  rw [hostReadObuf, h]

end

/-- Settles O13: the read notes the result byte, or a free byte; the invariant says the result is written. -/
theorem hostReadsOutputByte : Obligations.HostReadsOutputByte := by
  intro s a rest hs
  rw [step_host hs]
  refine ⟨fun b hdone ha hread => ?_, fun h => ⟨Config.freeByte s.draws, ?_⟩, fun hinv hdone ha => ?_⟩
  · exact congrArg Host.Outcome.next (hostReadObuf_of_byte ((if_pos ⟨hdone, ha⟩).trans hread))
  · exact congrArg Host.Outcome.next (hostReadObuf_of_none (if_neg h))
  · obtain ⟨y, hy, hlen⟩ := exists_result_of_inv hinv hdone
    exact ⟨y[a], (Memory.read_of_readSeq hy ha).trans (List.getElem?_eq_getElem _)⟩

end Sys2Proof.Machine

/-! # The fields of a command word (R80 to R85) -/

namespace Sys2Proof

@[simp] theorem cmdDir_encode (i : Instr) : cmdDir (encode i) = i.dir := by cases i <;> decide

@[simp] theorem cmdMethod_encode (i : Instr) : cmdMethod (encode i) = i.selector := by cases i <;> decide

@[simp] theorem decode_encode (i : Instr) : decode (encode i) = .ok i := by cases i <;> decide

/-- The fields of a word that decodes are those of its command (R84). -/
theorem fields_of_decode {c : Cmd} {i : Instr} (h : decode c = .ok i) : cmdDir c = i.dir ∧ cmdMethod c = i.selector := by
  unfold decode at h
  have hdir := BitVec.eq_zero_or_eq_one (cmdDir c)
  split at h
  case' isFalse => split at h
  case' isFalse.isFalse => split at h
  case isFalse.isFalse.isFalse => cases h
  all_goals
    obtain hd | hd := hdir <;> rw [hd] at h ⊢ <;> cases h <;> exact ⟨rfl, ‹_›⟩

/-- The words the decoder rejects are those with another selector (R85). -/
theorem decode_eq_error_iff {c : Cmd} {e : Reject} :
    decode c = .error e ↔ cmdMethod c ≠ 0x3031#16 ∧ cmdMethod c ≠ 0x3032#16 ∧ cmdMethod c ≠ 0x3033#16 := by
  unfold decode
  split
  · simp [*, selDeltaRle]
  · split
    · simp [*, selRleOnly]
    · split
      · simp [*, selDeltaOnly]
      · cases e
        simpa using ⟨‹_›, ‹_›, ‹_›⟩

end Sys2Proof

/-! # `H_START` (R178) -/

namespace Sys2Proof.Machine

/-- The commands with the parity check, by the fields of their words (R178). -/
theorem parityChecked_iff_of_decode {c : Cmd} {i : Instr} (h : decode c = .ok i) :
    parityChecked i = true ↔ cmdDir c = 1#1 ∧ (cmdMethod c = 0x3031#16 ∨ cmdMethod c = 0x3032#16) := by
  obtain ⟨hdir, hmethod⟩ := fields_of_decode h
  rw [hdir, hmethod]
  cases i <;> decide

section
variable {i : Instr} {s : State}

theorem hostStart_of_illegal {e : Reject} (hb : s.state ≠ .busy) (hd : decode s.cmd = .error e) :
    hostStart s = raise .invalidMethod s := by
  rw [hostStart, if_neg hb, hd]

theorem hostStart_of_legal (hb : s.state ≠ .busy) (hd : decode s.cmd = .ok i) : hostStart s = startCommand i s := by
  rw [hostStart, if_neg hb, hd]

theorem startCommand_of_odd (hp : parityChecked i = true) (hodd : s.ilen % 2 = 1) :
    startCommand i s = raise .malformedRLEStream s := by
  simp [startCommand, hp, hodd]

theorem startCommand_of_full (hp : ¬(parityChecked i = true ∧ s.ilen % 2 = 1))
    (hfull : lengthWithin s.ilen s.params.icap = false) : startCommand i s = raise .capacityExceeded s := by
  rw [startCommand, if_neg (by simpa using hp), if_neg (by simp [hfull])]

theorem startCommand_admitted (hp : ¬(parityChecked i = true ∧ s.ilen % 2 = 1))
    (hfit : lengthWithin s.ilen s.params.icap = true) : startCommand i s = beginOperation s := by
  rw [startCommand, if_neg (by simpa using hp), if_pos hfit]

end

/-- The whole of R178, the branches in their order. -/
theorem hostStart_eq (s : State) :
    hostStart s =
      if s.state = .busy then s
      else if cmdMethod s.cmd ≠ 0x3031#16 ∧ cmdMethod s.cmd ≠ 0x3032#16 ∧ cmdMethod s.cmd ≠ 0x3033#16 then
        raise .invalidMethod s
      else if cmdDir s.cmd = 1#1 ∧ (cmdMethod s.cmd = 0x3031#16 ∨ cmdMethod s.cmd = 0x3032#16) ∧ s.ilen % 2 = 1 then
        raise .malformedRLEStream s
      else if lengthWithin s.ilen s.params.icap = false then raise .capacityExceeded s
      else beginOperation s := by
  by_cases hb : s.state = .busy
  · rw [hostStart_of_busy hb, if_pos hb]
  rw [if_neg hb]
  cases hd : decode s.cmd with
  | error e => rw [hostStart_of_illegal hb hd, if_pos (decode_eq_error_iff.1 hd)]
  | ok i =>
    have hmethod := mt (decode_eq_error_iff (c := s.cmd) (e := .invalidMethod)).2 (by simp [hd])
    rw [hostStart_of_legal hb hd, if_neg hmethod]
    simp only [← and_assoc, ← parityChecked_iff_of_decode hd]
    split
    · exact startCommand_of_odd (And.left ‹_›) (And.right ‹_›)
    split
    · exact startCommand_of_full ‹_› ‹_›
    · exact startCommand_admitted ‹_› (Bool.of_not_eq_false ‹_›)

/-- Settles O10: the step is `H_START`, whose branches are those of the rule. -/
theorem hostStartPseudocode : Obligations.HostStartPseudocode := fun s rest hs =>
  (step_host hs).trans (congrArg Host.Outcome.next (hostStart_eq { s with script := rest }))

end Sys2Proof.Machine

/-! # What a run of core steps keeps (R183, R205)

An error register stays clear as long as nothing is raised, and the last stage of a schedule leaves MLEN and MBUF alone. -/

namespace Sys2Proof.Machine

section
variable {i : Instr} {n : Nat} {s t : State}

/-- What every core step of a BUSY state keeps holds at the end of a run. -/
theorem runCore_induction {P : State → Prop}
    (hstep : ∀ u v, u.state = .busy → P u → coreStep i u = .next v → P v) (hs : P s) (h : runCore i n s = .next t) :
    P t := by
  induction n generalizing s with
  | zero => cases h; exact hs
  | succ n ih =>
    by_cases hb : s.state = .busy
    · rw [runCore, if_pos hb] at h
      split at h
      · exact ih (hstep _ _ hb hs ‹_›) h
      · cases h
      · cases h
    · rw [runCore_not_busy _ hb] at h
      cases h
      exact hs

/-- A core step that raises nothing leaves ERR as it is. -/
theorem coreStep_err (h : coreStep i s = .next t) : t.state = .error ∨ t.err = s.err := by
  obtain ⟨st, -, ht⟩ := coreStep_next h
  cases ht
  case full => exact .inl rfl
  case ended => obtain ⟨_, e⟩ | ⟨_, e⟩ := stageDone_cases i s <;> rw [e] <;> exact .inr rfl
  all_goals right; simp

theorem runCore_err (herr : s.err = .none) (h : runCore i n s = .next t) : t.state = .error ∨ t.err = .none := by
  refine runCore_induction (P := fun t => t.state = .error ∨ t.err = .none) (fun u v hb hu huv => ?_) (.inr herr) h
  have hnone : u.err = .none := hu.resolve_left (by simp [hb])
  exact hnone ▸ coreStep_err huv

/-- A step of the last stage writes neither STG nor MLEN nor MBUF. -/
theorem coreStep_lastStage (hl : s.stg.val + 1 = (sched i).length) (h : coreStep i s = .next t) :
    t.stg = s.stg ∧ t.mlen = s.mlen ∧ t.mbuf = s.mbuf := by
  obtain ⟨st, ha, ht⟩ := coreStep_next h
  have hdst := activeStage_last_dst ha hl
  cases ht
  case ended => rw [stageDone, if_pos hl]; exact ⟨rfl, rfl, rfl⟩
  all_goals simp [hdst]

theorem runCore_lastStage (hl : s.stg.val + 1 = (sched i).length) (h : runCore i n s = .next t) :
    t.mlen = s.mlen ∧ t.mbuf = s.mbuf := by
  refine And.right <| runCore_induction (P := fun t => t.stg = s.stg ∧ t.mlen = s.mlen ∧ t.mbuf = s.mbuf)
    (fun u v _ hu huv => ?_) ⟨rfl, rfl, rfl⟩ h
  obtain ⟨hstg, hmlen, hmbuf⟩ := hu
  obtain ⟨hstg', hmlen', hmbuf'⟩ := coreStep_lastStage (hstg ▸ hl) huv
  exact ⟨hstg'.trans hstg, hmlen'.trans hmlen, hmbuf'.trans hmbuf⟩

end

end Sys2Proof.Machine

/-! # CMD and the script have no part in a run (R67, R181)

`exec` is given its command, and only the script says which event comes next: a run from a state with another command
word and another script is the same run. -/

namespace Sys2Proof.Machine

/-- The same state with another command word and another script. -/
def State.relabel (c : Cmd) (r : List Event) (s : State) : State := { s with cmd := c, script := r }

/-- An answer with its next state, if it has one, changed. -/
def mapNext (f : State → State) : Answer → Answer
  | .next t => .next (f t)
  | .fault f => .fault f
  | .refused r => .refused r

section
variable (c : Cmd) (r : List Event) (i : Instr) (st : Stage) (s : State)

theorem memRead_relabel (sp : Space) (a : Nat) : (s.relabel c r).memRead sp a = s.memRead sp a := by cases sp <;> rfl

theorem push_relabel (sp : Space) (v : Byte) : (s.relabel c r).push sp v = (s.push sp v).relabel c r := by
  cases sp <;> rfl

theorem produce_relabel (o : Byte) {keep : State → State} (hkeep : ∀ u, keep (u.relabel c r) = (keep u).relabel c r) :
    produce st o keep (s.relabel c r) = (produce st o keep s).relabel c r := by
  rw [produce_eq, produce_eq, apply_ite (State.relabel c r), ← hkeep, push_relabel]
  rfl

theorem emitThen_relabel {andThen : State → State}
    (hthen : ∀ u, andThen (u.relabel c r) = (andThen u).relabel c r) :
    emitThen st andThen (s.relabel c r) = (emitThen st andThen s).relabel c r := by
  rw [emitThen_eq, emitThen_eq, apply_ite (State.relabel c r), ← hthen, push_relabel, push_relabel]
  rfl

theorem expand_relabel : expand st (s.relabel c r) = (expand st s).relabel c r := by
  rw [expand_eq, expand_eq, apply_ite (State.relabel c r), push_relabel]
  rfl

theorem stageDone_relabel : stageDone i (s.relabel c r) = (stageDone i s).relabel c r := by
  rw [stageDone, stageDone, apply_ite (State.relabel c r)]
  rfl

theorem dencStep_relabel : dencStep i st (s.relabel c r) = mapNext (State.relabel c r) (dencStep i st s) := by
  have hread : (s.relabel c r).memRead st.src (s.relabel c r).rp = s.memRead st.src s.rp := memRead_relabel ..
  rw [dencStep, dencStep, hread, apply_ite (mapNext _), stageDone_relabel]
  cases s.memRead st.src s.rp with
  | none => rfl
  | some b => exact congrArg (ite _ · _) (congrArg Host.Outcome.next (produce_relabel c r st s _ fun _ => rfl))

theorem ddecStep_relabel : ddecStep i st (s.relabel c r) = mapNext (State.relabel c r) (ddecStep i st s) := by
  have hread : (s.relabel c r).memRead st.src (s.relabel c r).rp = s.memRead st.src s.rp := memRead_relabel ..
  rw [ddecStep, ddecStep, hread, apply_ite (mapNext _), stageDone_relabel]
  cases s.memRead st.src s.rp with
  | none => rfl
  | some b => exact congrArg (ite _ · _) (congrArg Host.Outcome.next (produce_relabel c r st s _ fun _ => rfl))

theorem rencStep_relabel : rencStep i st (s.relabel c r) = mapNext (State.relabel c r) (rencStep i st s) := by
  have hread : (s.relabel c r).memRead st.src (s.relabel c r).rp = s.memRead st.src s.rp := memRead_relabel ..
  have hturn (b : Byte) := emitThen_relabel c r st s (andThen := State.openRun b) fun _ => rfl
  have hclose := emitThen_relabel c r st s (andThen := State.closeRun) fun _ => rfl
  simp only [rencStep, hread, hturn, hclose, stageDone_relabel, apply_ite (mapNext _)]
  cases s.memRead st.src s.rp with
  | none => rfl
  | some b => simp only [apply_ite (mapNext _)]; rfl

theorem rdecStep_relabel : rdecStep i st (s.relabel c r) = mapNext (State.relabel c r) (rdecStep i st s) := by
  have hvalue : (s.relabel c r).memRead st.src (s.relabel c r).rp = s.memRead st.src s.rp := memRead_relabel ..
  have hlength : (s.relabel c r).memRead st.src ((s.relabel c r).rp + 1) = s.memRead st.src (s.rp + 1) :=
    memRead_relabel ..
  rw [rdecStep, rdecStep, hvalue, hlength, apply_ite (mapNext _), apply_ite (mapNext _), stageDone_relabel,
    expand_relabel]
  cases s.memRead st.src s.rp with
  | none => rfl
  | some v => cases s.memRead st.src (s.rp + 1) <;> rfl

theorem coreStep_relabel : coreStep i (s.relabel c r) = mapNext (State.relabel c r) (coreStep i s) := by
  rw [coreStep, coreStep, activeStage_congr (t := s.relabel c r) (s := s) rfl]
  cases activeStage i s with
  | none => rfl
  | some st =>
    obtain ⟨kind, src, dst⟩ := st
    cases kind
    case denc => exact dencStep_relabel ..
    case ddec => exact ddecStep_relabel ..
    case renc => exact rencStep_relabel ..
    case rdec => exact rdecStep_relabel ..

theorem runCore_relabel (n : Nat) : runCore i n (s.relabel c r) = mapNext (State.relabel c r) (runCore i n s) := by
  induction n generalizing s with
  | zero => rfl
  | succ n ih =>
    rw [runCore, runCore, coreStep_relabel, apply_ite (mapNext _)]
    cases coreStep i s with
    | next t => exact congrArg (ite _ · _) (ih t)
    | fault f => rfl
    | refused q => rfl

theorem startCommand_relabel : startCommand i (s.relabel c r) = (startCommand i s).relabel c r := by
  rw [startCommand, startCommand, apply_ite (State.relabel c r), apply_ite (State.relabel c r)]
  rfl

theorem exec_relabel : exec i (s.relabel c r) = mapNext (State.relabel c r) (exec i s) := by
  rw [exec_eq_operation, exec_eq_operation, operation, operation, startCommand_relabel, runCore_relabel,
    apply_ite (mapNext _)]
  rfl

end

end Sys2Proof.Machine

/-! # How a stage ends (R105, R120, R137, R158)

The four stage results in one form: a stage of kind `k` over `x` comes to `StageDone` with `k.transform x` produced, or
raises `CapacityExceeded`, within `k.maxSteps` of the length of `x`. -/

namespace Sys2Proof.Machine

/-- What a stage makes of its source (R105, R120, R137, R158). -/
def StageKind.transform : StageKind → ByteSeq → Option ByteSeq
  | .denc, x => some (deltaEncode x)
  | .ddec, y => some (deltaDecode y)
  | .renc, x => some (rleEncode x)
  | .rdec, x => rleDecode x

/-- A bound on the steps of a stage over `n` bytes; a record of two bytes can take 256. -/
def StageKind.maxSteps : StageKind → Nat → Nat
  | .denc, n | .ddec, n | .renc, n => n + 2
  | .rdec, n => 128 * n + 2

theorem maxSteps_of_ne_rdec {kind : StageKind} (h : kind ≠ .rdec) (n : Nat) : kind.maxSteps n = n + 2 := by
  cases kind
  case rdec => exact absurd rfl h
  all_goals rfl

theorem maxSteps_le (kind : StageKind) (n : Nat) : kind.maxSteps n ≤ 128 * n + 2 := by
  cases kind <;> simp only [StageKind.maxSteps] <;> omega

theorem length_recordRuns_le (recs : List Record) : (recordRuns recs).length ≤ 255 * recs.length := by
  induction recs with
  | nil => simp
  | cons r recs ih =>
    obtain ⟨v, n⟩ := r
    have hn := n.isLt
    rw [recordRuns_cons, List.length_append, List.length_replicate, List.length_cons]
    omega

/-- The run-length decoder makes at most 255 bytes of two (R158, R176). -/
theorem length_rleDecode_le {x y : ByteSeq} (h : rleDecode x = some y) : 2 * y.length ≤ 255 * x.length := by
  obtain ⟨recs, rfl, rfl⟩ := exists_records_of_rleDecode h
  have hle := length_recordRuns_le recs
  rw [length_recordBytes]
  omega

theorem exists_cap_of_not_lengthWithin {n : Nat} {c : Option Nat} (h : lengthWithin n c = false) :
    ∃ k, c = some k ∧ k < n := by
  cases c with
  | none => cases h
  | some c => exact ⟨c, rfl, Nat.lt_of_not_le (of_decide_eq_false h)⟩

/-- The stage has produced `y`, and its next step is `StageDone`. -/
structure StageComplete (i : Instr) (st : Stage) (p : Params) (x y : ByteSeq) (u : State) : Prop
    extends InStage i st p x u where
  produced : u.Produced st.dst y
  step_end : step u = .next (afterStageDone i u)

section
variable {i : Instr} {st : Stage} {p : Params} {s u : State} {x y out : ByteSeq} {k : Nat}

theorem Transduced.inStage (h : Transduced i st p x out k u) : InStage i st p x u := { h with }

theorem Transduced.produced_all (h : Transduced i st p x out x.length u) (hlen : out.length = x.length) :
    u.Produced st.dst out := by
  rw [State.Produced, h.wp, h.produced, List.take_of_length_le hlen.le]

theorem StageStart.completes (h : StageStart i st s) (hx : (s.buffer st.src).readSeq 0 s.slen = some x)
    (hy : st.kind.transform x = some y) (hfit : lengthWithin y.length (Params.cap s.params st.dst) = true) :
    ∃ k u, k < st.kind.maxSteps x.length ∧ runSteps k s = .next u ∧ StageComplete i st s.params x y u := by
  cases hkind : st.kind <;> rw [hkind] at hy
  case denc =>
    cases hy
    rw [length_deltaEncode] at hfit
    obtain ⟨u, hu, henc⟩ := StageStart.deltaEncoded h hkind hx (Nat.le_refl _) hfit
    exact ⟨_, u, Nat.lt_add_of_pos_right Nat.two_pos, hu,
      { henc.inStage with produced := henc.produced_all (length_deltaEncode x), step_end := henc.step_end }⟩
  case ddec =>
    cases hy
    rw [length_deltaDecode] at hfit
    obtain ⟨u, hu, hdec⟩ := StageStart.deltaDecoded h hkind hx (Nat.le_refl _) hfit
    exact ⟨_, u, Nat.lt_add_of_pos_right Nat.two_pos, hu,
      { hdec.inStage with produced := hdec.produced_all (length_deltaDecode x), step_end := hdec.step_end }⟩
  case renc =>
    cases hy
    obtain ⟨u, hu, hend⟩ := StageStart.runLengthEncodeEnd h hkind hx hfit
    exact ⟨_, u, by rw [StageKind.maxSteps]; split <;> omega, hu,
      { hend with produced := hend.encoded, step_end := hend.step_end }⟩
  case rdec =>
    have hle := length_rleDecode_le hy
    obtain ⟨recs, rfl, rfl⟩ := exists_records_of_rleDecode hy
    obtain ⟨u, hu, hdec⟩ | ⟨_, _, _, _, hdec, hover⟩ := StageStart.runLengthDecoded h hkind hx (Nat.le_refl _)
    · refine ⟨_, u, ?_, hu, { hdec with produced := hdec.produced_all, step_end := hdec.step_end }⟩
      rw [length_recordBytes] at hle
      rw [StageKind.maxSteps, length_recordBytes]
      omega
    · exact absurd hover (hdec.not_expandOverflows hfit)

theorem StageStart.overflows (h : StageStart i st s) (hx : (s.buffer st.src).readSeq 0 s.slen = some x)
    (hy : st.kind.transform x = some y) (hfull : lengthWithin y.length (Params.cap s.params st.dst) = false) :
    ∃ k u, k < st.kind.maxSteps x.length ∧ runSteps (k + 1) s = .next (afterCapacityError u) := by
  obtain ⟨c, hcap, hc⟩ := exists_cap_of_not_lengthWithin hfull
  obtain ⟨kind, src, dst⟩ := st
  cases kind
  case denc =>
    cases hy
    rw [length_deltaEncode] at hc
    obtain ⟨-, -, hover⟩ := deltaEncodeStageResult i src dst s x h hx
    obtain ⟨u, -, -, hu⟩ := hover c hcap hc
    exact ⟨c, u, Nat.lt_add_right 2 hc, hu⟩
  case ddec =>
    cases hy
    rw [length_deltaDecode] at hc
    obtain ⟨-, -, hover⟩ := deltaDecodeStageResult i src dst s x h hx
    obtain ⟨u, -, -, hu⟩ := hover c hcap hc
    exact ⟨c, u, Nat.lt_add_right 2 hc, hu⟩
  case renc =>
    cases hy
    obtain ⟨-, -, hover⟩ := runLengthEncodeStageResult i src dst s x h hx
    obtain ⟨k, u, hk, -, -, hu⟩ := hover hfull
    exact ⟨k, u, by rw [StageKind.maxSteps]; omega, hu⟩
  case rdec =>
    have hle := length_rleDecode_le hy
    obtain ⟨-, -, hover⟩ := runLengthDecodeStageResult i src dst s x y h hx hy
    obtain ⟨k, u, hk, -, -, -, hu⟩ := hover c hcap hc
    exact ⟨k, u, by rw [StageKind.maxSteps]; omega, hu⟩

/-- A stage whose output fits runs to its `StageDone`. -/
theorem StageStart.runCore_done (h : StageStart i st s) (hx : (s.buffer st.src).readSeq 0 s.slen = some x)
    (hy : st.kind.transform x = some y) (hfit : lengthWithin y.length (Params.cap s.params st.dst) = true) :
    ∃ k u, k ≤ st.kind.maxSteps x.length ∧ runCore i k s = .next (stageDone i u) ∧ StageComplete i st s.params x y u := by
  obtain ⟨k, u, hk, hu, hend⟩ := StageStart.completes h hx hy hfit
  obtain ⟨hscript, -, hdec, -⟩ := h
  exact ⟨k + 1, u, hk, (runSteps_eq_runCore _ hscript hdec).symm.trans (runSteps_snoc hu hend.step_end), hend⟩

/-- A stage whose output does not fit raises `CapacityExceeded`, and the operation has failed (R205). -/
theorem StageStart.runCore_failed (h : StageStart i st s) (hx : (s.buffer st.src).readSeq 0 s.slen = some x)
    (hy : st.kind.transform x = some y) (hfull : lengthWithin y.length (Params.cap s.params st.dst) = false) :
    ∃ k t, k ≤ st.kind.maxSteps x.length ∧ runCore i k s = .next t ∧ Failed t .capacityExceeded := by
  obtain ⟨k, u, hk, hu⟩ := StageStart.overflows h hx hy hfull
  obtain ⟨hscript, -, hdec, -⟩ := h
  exact ⟨k + 1, _, hk, (runSteps_eq_runCore _ hscript hdec).symm.trans hu, rfl, rfl, rfl, rfl⟩

/-- No stage stands twice in a schedule (R180), so that the stage tells STG. -/
theorem stg_of_activeStage (hs : activeStage i s = some st) (hu : activeStage i u = some st) : u.stg = s.stg := by
  have hnodup : (sched i).Nodup := by cases i <;> decide
  have hlt : u.stg.val < (sched i).length := (List.getElem?_eq_some_iff.1 hu).1
  exact Fin.ext ((List.getElem?_inj hlt hnodup).1 (hu.trans hs.symm))

/-- How the last stage ends: the operation has succeeded, MLEN and MBUF as they were, or failed (R183, R205). -/
theorem StageStart.last_ends (h : StageStart i st s) (hl : s.stg.val + 1 = (sched i).length) (herr : s.err = .none)
    (hx : (s.buffer st.src).readSeq 0 s.slen = some x) (hy : st.kind.transform x = some y) :
    ∃ k t, k ≤ st.kind.maxSteps x.length ∧ runCore i k s = .next t ∧
      (lengthWithin y.length s.params.ocap = true → Finished t y ∧ t.mlen = s.mlen ∧ t.mbuf = s.mbuf) ∧
      (lengthWithin y.length s.params.ocap = false → Failed t .capacityExceeded) := by
  have ⟨_, _, _, ha, _⟩ := h
  have hdst := activeStage_last_dst ha hl
  cases hfit : lengthWithin y.length s.params.ocap with
  | false =>
    obtain ⟨k, t, hk, ht, hfailed⟩ := StageStart.runCore_failed h hx hy (by rw [hdst]; exact hfit)
    exact ⟨k, t, hk, ht, nofun, fun _ => hfailed⟩
  | true =>
    obtain ⟨k, u, hk, ht, hend⟩ := StageStart.runCore_done h hx hy (by rw [hdst]; exact hfit)
    have hout := hend.produced
    rw [hdst] at hout
    rw [stageDone, stg_of_activeStage ha hend.active, if_pos hl] at ht
    have hnone : (finishOperation u).err = .none := (runCore_err herr ht).resolve_left (by simp)
    exact ⟨k, _, hk, ht, fun _ => ⟨⟨rfl, hnone, hout.wp_eq, hout⟩, runCore_lastStage hl ht⟩, nofun⟩

end

end Sys2Proof.Machine

/-! # How an operation ends (R172 to R177, R185)

A command has one stage or two, and its function-level result is what they make of the input in turn. -/

namespace Sys2Proof.Machine

/-- A command of one stage, from IBUF to OBUF (R173, R174, R176, R177). -/
structure OneStage (i : Instr) (st : Stage) (x : ByteSeq) : Prop where
  sched : sched i = [st]
  src : st.src = .ibuf
  result : functionLevel (encode i) x = orMalformed (st.kind.transform x)
  intermediate : intermediate i x = none

/-- A command of two stages, with the intermediate sequence in MBUF (R172, R175). -/
structure TwoStage (i : Instr) (st st₁ : Stage) (x : ByteSeq) : Prop where
  sched : sched i = [st, st₁]
  src : st.src = .ibuf
  dst : st.dst = .mbuf
  src₁ : st₁.src = .mbuf
  result : functionLevel (encode i) x = orMalformed ((st.kind.transform x).bind st₁.kind.transform)
  intermediate : intermediate i x = st.kind.transform x
  kind₁ : st₁.kind ≠ .rdec
  /-- Both stages stay within the bound of a whole operation. -/
  length_le : ∀ mid, st.kind.transform x = some mid → mid.length ≤ 128 * x.length

theorem oneStage_or_twoStage (i : Instr) (x : ByteSeq) :
    (∃ st, OneStage i st x) ∨ ∃ st st₁, TwoStage i st st₁ x := by
  cases i
  case compressDeltaRle =>
    refine .inr ⟨_, _, rfl, rfl, rfl, rfl, rfl, rfl, nofun, ?_⟩
    rintro _ ⟨⟩
    rw [length_deltaEncode]
    omega
  case decompressDeltaRle =>
    refine .inr ⟨_, _, rfl, rfl, rfl, rfl, ?_, rfl, nofun, fun mid hmid => ?_⟩
    · exact congrArg orMalformed (Option.map_eq_bind ..)
    · have := length_rleDecode_le hmid
      omega
  all_goals exact .inl ⟨_, rfl, rfl, rfl, rfl⟩

theorem orMalformed_eq_ok_iff {o : Option ByteSeq} {y : ByteSeq} : orMalformed o = .ok y ↔ o = some y := by
  cases o <;> simp [orMalformed]

/-- The condition of R185 for a command of one stage. -/
theorem capacitiesSuffice_of_none {p : Params} {i : Instr} {x y : ByteSeq} (h : intermediate i x = none) :
    capacitiesSuffice p i x y = true ↔
      lengthWithin x.length p.icap = true ∧ lengthWithin y.length p.ocap = true := by
  simp [capacitiesSuffice, h]

/-- The condition of R185 for a command with an intermediate sequence. -/
theorem capacitiesSuffice_of_some {p : Params} {i : Instr} {x y mid : ByteSeq} (h : intermediate i x = some mid) :
    capacitiesSuffice p i x y = true ↔
      lengthWithin x.length p.icap = true ∧ lengthWithin mid.length p.mcap = true ∧
        lengthWithin y.length p.ocap = true := by
  simp [capacitiesSuffice, h, and_assoc, and_comm]

/-- The operation `i` on `x` has succeeded with `y`, from `s` to `t`: MBUF and MLEN hold the intermediate sequence, or are
untouched where there is none. -/
structure Succeeded (i : Instr) (x y : ByteSeq) (s t : State) : Prop where
  finished : Finished t y
  untouched : intermediate i x = none → t.mbuf = s.mbuf ∧ t.mlen = s.mlen
  stored : ∀ mid, intermediate i x = some mid → t.mlen = mid.length ∧ t.mbuf.readSeq 0 t.mlen = some mid

/-- The operation `i` on `x`, whose function-level result is `y`, has ended as R185 says, from `s` to `t`. -/
structure Ended (i : Instr) (x y : ByteSeq) (s t : State) : Prop where
  succeeded : capacitiesSuffice s.params i x y = true → Succeeded i x y s t
  failed : capacitiesSuffice s.params i x y ≠ true → Failed t .capacityExceeded

theorem Ended.not_busy {i : Instr} {x y : ByteSeq} {s t : State} (h : Ended i x y s t) : t.state ≠ .busy := by
  by_cases hsuff : capacitiesSuffice s.params i x y = true
  · simp [(h.succeeded hsuff).finished.1]
  · simp [(h.failed hsuff).1]

section
variable {i : Instr} {st st₁ : Stage} {s u : State} {x y mid : ByteSeq}

/-- An accepted `H_START` is the start of stage 0 (R178). -/
theorem stageStart_beginOperation (hs : s.script = []) (hd : decode s.cmd = .ok i) (ha : (sched i)[0]? = some st) :
    StageStart i st (beginOperation s) :=
  ⟨hs, rfl, hd, ha, rfl, rfl, rfl, rfl, rfl, rfl⟩

/-- `StageDone` of stage 0 is the start of stage 1 (R183). -/
theorem StageComplete.stageStart (h : StageComplete i st s.params x y u) (ha : (sched i)[1]? = some st₁) :
    StageStart i st₁ (enterStageOne u) :=
  ⟨h.script, h.busy, h.decoded, ha, rfl, rfl, rfl, rfl, rfl, rfl⟩

/-- A command of one stage ends as its last stage does. -/
theorem OneStage.ends (h : OneStage i st x) (hs : s.script = []) (hd : decode s.cmd = .ok i) (hx : s.input = some x)
    (hy : st.kind.transform x = some y) (hicap : lengthWithin x.length s.params.icap = true) :
    ∃ k t, k ≤ stepBound x.length ∧ runCore i k (beginOperation s) = .next t ∧ Ended i x y s t := by
  have hstart := stageStart_beginOperation hs hd (st := st) (by rw [h.sched]; rfl)
  obtain ⟨k, t, hk, ht, hfit, hfull⟩ := StageStart.last_ends hstart (by rw [h.sched]; rfl) rfl (by rw [h.src]; exact hx) hy
  have hle := maxSteps_le st.kind x.length
  refine ⟨k, t, by rw [stepBound]; omega, ht, ?_⟩
  have hcap := capacitiesSuffice_of_none (p := s.params) (y := y) h.intermediate
  refine ⟨fun hsuff => ?_, fun hsuff => hfull ?_⟩
  · obtain ⟨hfin, hmlen, hmbuf⟩ := hfit (hcap.1 hsuff).2
    exact ⟨hfin, fun _ => ⟨hmbuf, hmlen⟩, by simp [h.intermediate]⟩
  · exact Bool.eq_false_iff.2 fun hocap => hsuff (hcap.2 ⟨hicap, hocap⟩)

/-- Stage 0 of two, its output within MCAP, hands over to stage 1 (R183). -/
theorem TwoStage.hands_over (h : TwoStage i st st₁ x) (hs : s.script = []) (hd : decode s.cmd = .ok i)
    (hx : s.input = some x) (hmid : st.kind.transform x = some mid)
    (hmcap : lengthWithin mid.length s.params.mcap = true) :
    ∃ k u, k ≤ st.kind.maxSteps x.length ∧ runCore i k (beginOperation s) = .next (enterStageOne u) ∧
      (enterStageOne u).err = .none ∧ StageComplete i st s.params x mid u := by
  have hstart := stageStart_beginOperation hs hd (st := st) (by rw [h.sched]; rfl)
  obtain ⟨k, u, hk, hu, hend⟩ :=
    StageStart.runCore_done hstart (by rw [h.src]; exact hx) hmid (by rw [h.dst]; exact hmcap)
  have hstg : u.stg = 0 := stg_of_activeStage (s := beginOperation s) (by rw [activeStage, h.sched]; rfl) hend.active
  rw [stageDone, hstg, h.sched, if_neg (by simp)] at hu
  exact ⟨k, u, hk, hu, (runCore_err rfl hu).resolve_left (by simp [hend.busy]), hend⟩

/-- A command of two stages ends in stage 0 if the intermediate sequence is too long, and otherwise as its last stage does. -/
theorem TwoStage.ends (h : TwoStage i st st₁ x) (hs : s.script = []) (hd : decode s.cmd = .ok i)
    (hx : s.input = some x) (hmid : st.kind.transform x = some mid) (hy : st₁.kind.transform mid = some y)
    (hicap : lengthWithin x.length s.params.icap = true) :
    ∃ k t, k ≤ stepBound x.length ∧ runCore i k (beginOperation s) = .next t ∧ Ended i x y s t := by
  have hle := maxSteps_le st.kind x.length
  have hint := h.intermediate.trans hmid
  have hcap := capacitiesSuffice_of_some (p := s.params) (y := y) hint
  cases hmcap : lengthWithin mid.length s.params.mcap with
  | false =>
    have hstart := stageStart_beginOperation hs hd (st := st) (by rw [h.sched]; rfl)
    obtain ⟨k, t, hk, ht, hfailed⟩ :=
      StageStart.runCore_failed hstart (by rw [h.src]; exact hx) hmid (by rw [h.dst]; exact hmcap)
    refine ⟨k, t, by rw [stepBound]; omega, ht, fun hsuff => ?_, fun _ => hfailed⟩
    obtain ⟨-, hmcap', -⟩ := hcap.1 hsuff
    cases hmcap.symm.trans hmcap'
  | true =>
    obtain ⟨k, u, hk, hu, hnone, hend⟩ := h.hands_over hs hd hx hmid hmcap
    have hmbuf : u.Produced .mbuf mid := h.dst ▸ hend.produced
    have hstart := hend.stageStart (st₁ := st₁) (by rw [h.sched]; rfl)
    obtain ⟨k₁, t, hk₁, ht, hfit, hfull⟩ :=
      StageStart.last_ends hstart (by rw [h.sched]; rfl) hnone (by rw [h.src₁]; exact hmbuf) hy
    rw [show (enterStageOne u).params = s.params from hend.params] at hfit hfull
    rw [maxSteps_of_ne_rdec h.kind₁] at hk₁
    have hlen := h.length_le mid hmid
    refine ⟨k + k₁, t, by rw [stepBound]; omega, (runCore_add k₁ hu).trans ht, fun hsuff => ?_, fun hsuff => hfull ?_⟩
    · obtain ⟨-, -, hocap⟩ := hcap.1 hsuff
      obtain ⟨hfin, hmlen, hkept⟩ := hfit hocap
      refine ⟨hfin, by simp [hint], fun mid' hmid' => ?_⟩
      cases hint.symm.trans hmid'
      rw [hmlen, hkept]
      exact ⟨hmbuf.wp_eq, hmbuf⟩
    · exact Bool.eq_false_iff.2 fun hocap => hsuff (hcap.2 ⟨hicap, hmcap, hocap⟩)

/-- The core steps of an accepted operation, up to its end. -/
theorem beginOperation_ends (hs : s.script = []) (hd : decode s.cmd = .ok i) (hx : s.input = some x)
    (hy : functionLevel (encode i) x = .ok y) (hicap : lengthWithin x.length s.params.icap = true) :
    ∃ t, runCore i (stepBound s.ilen) (beginOperation s) = .next t ∧ Ended i x y s t := by
  obtain ⟨k, t, hk, ht, hend⟩ :
      ∃ k t, k ≤ stepBound x.length ∧ runCore i k (beginOperation s) = .next t ∧ Ended i x y s t := by
    obtain ⟨st, h⟩ | ⟨st, st₁, h⟩ := oneStage_or_twoStage i x
    · exact h.ends hs hd hx (orMalformed_eq_ok_iff.1 (h.result.symm.trans hy)) hicap
    · obtain ⟨mid, hmid, hy⟩ := Option.bind_eq_some_iff.1 (orMalformed_eq_ok_iff.1 (h.result.symm.trans hy))
      exact h.ends hs hd hx hmid hy hicap
  rw [← Memory.length_of_readSeq hx]
  exact ⟨t, runCore_le ht hend.not_busy hk, hend⟩

end

/-- The only error of a command at the function level is the odd length of a stream of records (R152, R171). -/
theorem functionLevel_encode_eq_error_iff {i : Instr} {x : ByteSeq} {e : Err} :
    functionLevel (encode i) x = .error e ↔
      e = .malformedRLEStream ∧ parityChecked i = true ∧ x.length % 2 = 1 := by
  have hmalformed {o : Option ByteSeq} : orMalformed o = .error e ↔ e = .malformedRLEStream ∧ o = none := by
    cases o <;> simp [orMalformed, eq_comm]
  cases i
  case decompressDeltaRle =>
    have hresult : functionLevel (encode .decompressDeltaRle) x = orMalformed ((rleDecode x).map deltaDecode) := rfl
    rw [hresult, hmalformed, Option.map_eq_none_iff, rleDecode_eq_none_iff]
    simp [parityChecked]
  case decompressRleOnly =>
    have hresult : functionLevel (encode .decompressRleOnly) x = orMalformed (rleDecode x) := rfl
    rw [hresult, hmalformed, rleDecode_eq_none_iff]
    simp [parityChecked]
  all_goals exact ⟨nofun, fun ⟨_, hp, _⟩ => nomatch hp⟩

/-- `Ended` speaks of neither the command word nor the script. -/
theorem Ended.relabel {i : Instr} {x y : ByteSeq} {s t : State} {c c' : Cmd} {r r' : List Event}
    (h : Ended i x y (s.relabel c r) t) : Ended i x y s (t.relabel c' r') :=
  ⟨fun hsuff => have hsucc := h.succeeded hsuff; ⟨hsucc.finished, hsucc.untouched, hsucc.stored⟩, h.failed⟩

theorem failed_raise (e : Err) (s : State) : Failed (raise e s) e := ⟨rfl, rfl, rfl, rfl⟩

section
variable {i : Instr} {s : State} {x y : ByteSeq}

/-- A whole operation from a state that is not BUSY, whatever CMD and the script (R184). -/
theorem exec_of_not_busy (hb : s.state ≠ .busy) : exec i s = runCore i (stepBound s.ilen) (startCommand i s) := by
  rw [exec_eq_operation, operation, if_neg hb]

/-- A command whose function level gives an error ends with it (R185). -/
theorem exec_fails {e : Err} (hb : s.state ≠ .busy) (hx : s.input = some x)
    (he : functionLevel (encode i) x = .error e) : ∃ t, exec i s = .next t ∧ Failed t e := by
  obtain ⟨rfl, hp, hodd⟩ := functionLevel_encode_eq_error_iff.1 he
  rw [Memory.length_of_readSeq hx] at hodd
  refine ⟨raise .malformedRLEStream s, ?_, failed_raise _ s⟩
  rw [exec_of_not_busy hb, startCommand_of_odd hp hodd, runCore_not_busy _ (by simp)]

/-- A command whose function level gives a sequence ends as the capacities allow, run as the command in CMD (R185). -/
theorem exec_ends_of_decode (hs : s.script = []) (hd : decode s.cmd = .ok i) (hb : s.state ≠ .busy)
    (hx : s.input = some x) (hy : functionLevel (encode i) x = .ok y) : ∃ t, exec i s = .next t ∧ Ended i x y s t := by
  have hlen := Memory.length_of_readSeq hx
  have hp : ¬(parityChecked i = true ∧ s.ilen % 2 = 1) := by
    rw [← hlen]
    intro h
    cases hy.symm.trans (functionLevel_encode_eq_error_iff.2 ⟨rfl, h⟩)
  rw [exec_of_not_busy hb]
  cases hicap : lengthWithin s.ilen s.params.icap with
  | false =>
    rw [startCommand_of_full hp hicap, runCore_not_busy _ (by simp)]
    exact ⟨_, rfl, fun hsuff => by simp [capacitiesSuffice, hlen, hicap] at hsuff, fun _ => failed_raise _ s⟩
  | true =>
    rw [startCommand_admitted hp hicap]
    exact beginOperation_ends hs hd hx hy (hlen ▸ hicap)

/-- The same whatever CMD and the script. -/
theorem exec_ends (hb : s.state ≠ .busy) (hx : s.input = some x) (hy : functionLevel (encode i) x = .ok y) :
    ∃ t, exec i s = .next t ∧ Ended i x y s t := by
  obtain ⟨t, ht, hend⟩ :=
    exec_ends_of_decode (s := s.relabel (encode i) []) rfl (decode_encode i) hb hx hy
  refine ⟨t.relabel s.cmd s.script, ?_, hend.relabel⟩
  have hback := exec_relabel s.cmd s.script i (s.relabel (encode i) [])
  rw [ht] at hback
  exact hback

end

end Sys2Proof.Machine

/-! # The six commands (R172 to R177)

Each is the operation of its schedule; what remains of each rule is its own word, condition and examples. -/

namespace Sys2Proof.Machine

section
variable {i : Instr} {s t : State} {x y mid : ByteSeq}

/-- A command of one stage succeeds where input and result fit, MBUF and MLEN untouched. -/
theorem Ended.succeeded_oneStage (h : Ended i x y s t) (hi : intermediate i x = none)
    (hicap : lengthWithin x.length s.params.icap = true) (hocap : lengthWithin y.length s.params.ocap = true) :
    Finished t y ∧ t.mbuf = s.mbuf ∧ t.mlen = s.mlen := by
  have hsucc := h.succeeded ((capacitiesSuffice_of_none hi).2 ⟨hicap, hocap⟩)
  exact ⟨hsucc.finished, hsucc.untouched hi⟩

theorem Ended.failed_oneStage (h : Ended i x y s t) (hi : intermediate i x = none)
    (hcap : ¬(lengthWithin x.length s.params.icap = true ∧ lengthWithin y.length s.params.ocap = true)) :
    Failed t .capacityExceeded :=
  h.failed (mt (capacitiesSuffice_of_none hi).1 hcap)

/-- A command of two stages succeeds where input, intermediate sequence and result fit, MBUF holding the second. -/
theorem Ended.succeeded_twoStage (h : Ended i x y s t) (hi : intermediate i x = some mid)
    (hicap : lengthWithin x.length s.params.icap = true) (hmcap : lengthWithin mid.length s.params.mcap = true)
    (hocap : lengthWithin y.length s.params.ocap = true) :
    Finished t y ∧ t.mlen = mid.length ∧ t.mbuf.readSeq 0 t.mlen = some mid := by
  have hsucc := h.succeeded ((capacitiesSuffice_of_some hi).2 ⟨hicap, hmcap, hocap⟩)
  exact ⟨hsucc.finished, hsucc.stored mid hi⟩

theorem Ended.failed_twoStage (h : Ended i x y s t) (hi : intermediate i x = some mid)
    (hcap : ¬(lengthWithin x.length s.params.icap = true ∧ lengthWithin mid.length s.params.mcap = true ∧
      lengthWithin y.length s.params.ocap = true)) : Failed t .capacityExceeded :=
  h.failed (mt (capacitiesSuffice_of_some hi).1 hcap)

/-- The two commands with the parity check fail on an odd length (R175, R176). -/
theorem exec_odd (hp : parityChecked i = true) (hb : s.state ≠ .busy) (hx : s.input = some x)
    (hodd : x.length % 2 = 1) : ∃ t, exec i s = .next t ∧ Failed t .malformedRLEStream :=
  exec_fails hb hx (functionLevel_encode_eq_error_iff.2 ⟨rfl, hp, hodd⟩)

end

theorem deltaEncode_replicate (b : Byte) (n : Nat) :
    deltaEncode (List.replicate (n + 1) b) = b :: List.replicate n 0#8 :=
  congrArg (b :: ·) (deltaDiffs_replicate b n)

/-- A run that one record can count (R130). -/
theorem rleEncode_replicate (b : Byte) {n : Nat} (hpos : 1 ≤ n) (hmax : n ≤ 255) :
    rleEncode (List.replicate n b) = [b, BitVec.ofNat 8 n] := by
  simpa using rleEncode_run (v := b) (y := []) hpos hmax nofun

/-- A run of a byte other than 0 has one difference that is not 0, the first (R172). -/
theorem rleEncode_deltaEncode_replicate {b : Byte} (hb : b ≠ 0#8) {n : Nat} (hpos : 1 ≤ n) (hmax : n ≤ 255) :
    rleEncode (deltaEncode (List.replicate (n + 1) b)) = [b, 1#8, 0#8, BitVec.ofNat 8 n] := by
  have hhead : (List.replicate n 0#8).head? ≠ some b := by simp [List.head?_replicate, Ne.symm hb]
  rw [deltaEncode_replicate, ← rleEncode_replicate 0#8 hpos hmax]
  exact rleEncode_run (v := b) (Nat.le_refl 1) (by decide) fun h => absurd h hhead

/-- A run of zeros is its own sequence of differences (R172). -/
theorem rleEncode_deltaEncode_zeros {n : Nat} (hpos : 1 ≤ n) (hmax : n ≤ 255) :
    rleEncode (deltaEncode (List.replicate n 0#8)) = [0#8, BitVec.ofNat 8 n] := by
  obtain ⟨m, rfl⟩ := Nat.exists_eq_add_of_le' hpos
  rw [deltaEncode_replicate, ← List.replicate_succ, rleEncode_replicate 0#8 hpos hmax]

/-- Settles O26: the operation of the command, and its result on runs of one byte. -/
theorem compressDeltaRleResult : Obligations.CompressDeltaRleResult := by
  refine ⟨rfl, rfl, fun s x hb hx => ?_, rfl, fun b n hne hpos hmax => ?_, rleEncode_singleton,
    fun n => rleEncode_deltaEncode_zeros, by decide, by decide⟩
  · obtain ⟨t, ht, hend⟩ := exec_ends (i := .compressDeltaRle) hb hx rfl
    refine ⟨fun hicap hmcap hocap => ?_, fun hcap => ⟨t, ht, hend.failed_twoStage rfl (by simpa using hcap)⟩⟩
    obtain ⟨hfin, hmlen, hmbuf⟩ := hend.succeeded_twoStage rfl hicap (by simpa using hmcap) hocap
    exact ⟨t, ht, hfin, hmlen.trans (length_deltaEncode x), hmbuf⟩
  · obtain ⟨m, rfl⟩ := Nat.exists_eq_add_of_le' (Nat.le_of_succ_le hpos)
    exact rleEncode_deltaEncode_replicate hne (by omega) (by omega)

/-- Settles O27: the operation of the command. -/
theorem compressRleOnlyResult : Obligations.CompressRleOnlyResult := by
  refine ⟨rfl, rfl, fun s x hb hx => ?_, by decide⟩
  obtain ⟨t, ht, hend⟩ := exec_ends (i := .compressRleOnly) hb hx rfl
  exact ⟨fun hicap hocap => ⟨t, ht, hend.succeeded_oneStage rfl hicap hocap⟩,
    fun hcap => ⟨t, ht, hend.failed_oneStage rfl hcap⟩⟩

/-- Settles O28: the operation of the command. -/
theorem compressDeltaOnlyResult : Obligations.CompressDeltaOnlyResult := by
  refine ⟨rfl, rfl, fun s x hb hx => ?_, by decide⟩
  obtain ⟨t, ht, hend⟩ := exec_ends (i := .compressDeltaOnly) hb hx rfl
  rw [← length_deltaEncode x]
  refine ⟨fun hicap hocap => ?_, fun hcap => ⟨t, ht, hend.failed_oneStage rfl (by simpa using hcap)⟩⟩
  obtain ⟨hfin, hmbuf, hmlen⟩ := hend.succeeded_oneStage rfl (by simpa using hicap) hocap
  have ⟨_, _, holen, _⟩ := hfin
  exact ⟨t, ht, hfin, holen, hmbuf, hmlen⟩

/-- Settles O29: the operation of the command. -/
theorem decompressDeltaRleResult : Obligations.DecompressDeltaRleResult := by
  refine ⟨rfl, rfl, fun s x hb hx => ⟨exec_odd rfl hb hx, fun mid hmid => ?_⟩, rfl, by decide⟩
  have hresult : functionLevel (encode .decompressDeltaRle) x = .ok (deltaDecode mid) :=
    congrArg (orMalformed <| Option.map deltaDecode ·) hmid
  obtain ⟨t, ht, hend⟩ := exec_ends hb hx hresult
  refine ⟨fun hicap hmcap hocap => ?_, fun hcap => ⟨t, ht, hend.failed_twoStage hmid (by simpa using hcap)⟩⟩
  obtain ⟨hfin, hmlen, hmbuf⟩ := hend.succeeded_twoStage hmid hicap hmcap (by simpa using hocap)
  have ⟨_, _, holen, _⟩ := hfin
  exact ⟨t, ht, hfin, hmlen, by rw [holen, hmlen, length_deltaDecode], hmbuf⟩

/-- Settles O30: the operation of the command. -/
theorem decompressRleOnlyResult : Obligations.DecompressRleOnlyResult := by
  refine ⟨rfl, rfl, fun s x hb hx => ⟨exec_odd rfl hb hx, fun y hy => ?_⟩, ?vector⟩
  case vector =>
    have hrecords := rleDecode_recordBytes [(0x41#8, 255#8), (0x41#8, 45#8)]
    rwa [recordRuns_cons, recordRuns_cons, recordRuns_nil, List.append_nil, List.replicate_append_replicate] at hrecords
  have hresult : functionLevel (encode .decompressRleOnly) x = .ok y := congrArg orMalformed hy
  obtain ⟨t, ht, hend⟩ := exec_ends hb hx hresult
  exact ⟨fun hicap hocap => ⟨t, ht, hend.succeeded_oneStage rfl hicap hocap⟩,
    fun hcap => ⟨t, ht, hend.failed_oneStage rfl hcap⟩⟩

/-- Settles O31: the operation of the command. -/
theorem decompressDeltaOnlyResult : Obligations.DecompressDeltaOnlyResult := by
  refine ⟨rfl, rfl, fun s x hb hx => ?_, by decide⟩
  obtain ⟨t, ht, hend⟩ := exec_ends (i := .decompressDeltaOnly) hb hx rfl
  rw [← length_deltaDecode x]
  refine ⟨fun hicap hocap => ?_, fun hcap => ⟨t, ht, hend.failed_oneStage rfl (by simpa using hcap)⟩⟩
  obtain ⟨hfin, hmbuf, hmlen⟩ := hend.succeeded_oneStage rfl (by simpa using hicap) hocap
  have ⟨_, _, holen, _⟩ := hfin
  exact ⟨t, ht, hfin, holen, hmbuf, hmlen⟩

end Sys2Proof.Machine

/-! # The two levels (R185, R194) -/

namespace Sys2Proof.Machine

section
variable {i : Instr} {c : Cmd} {s : State} {x y : ByteSeq}

/-- The function level of a word that decodes is that of its command. -/
theorem functionLevel_of_decode (h : decode c = .ok i) (x : ByteSeq) :
    functionLevel c x = functionLevel (encode i) x := by
  obtain ⟨hdir, hmethod⟩ := fields_of_decode h
  rw [functionLevel, functionLevel, hdir, hmethod, cmdDir_encode, cmdMethod_encode]

/-- A word that does not decode is met with the same error by both functions (R170, R171). -/
theorem functionLevel_of_illegal {e : Reject} (h : decode c = .error e) (x : ByteSeq) :
    functionLevel c x = .error .invalidMethod := by
  obtain ⟨hfirst, hsecond, hthird⟩ := decode_eq_error_iff.1 h
  simp [functionLevel, compress, decompress, selDeltaRle, selRleOnly, selDeltaOnly, hfirst, hsecond, hthird]

/-- The two rows of R185 for a sequence. -/
theorem Ended.by_capacity {t : State} (h : Ended i x y s t) :
    if capacitiesSuffice s.params i x y = true then Finished t y else Failed t .capacityExceeded := by
  split
  · exact (h.succeeded ‹_›).finished
  · exact h.failed ‹_›

/-- `H_START` and as many core steps as an operation can take are the whole operation. -/
theorem runSteps_start (hs : s.script = [.host .start]) (hb : s.state ≠ .busy) (hd : decode s.cmd = .ok i) :
    runSteps (stepBound s.ilen + 1) s = exec i { s with script := [] } := by
  have hstart : step s = .next (startCommand i { s with script := [] }) :=
    (step_host hs).trans (congrArg Host.Outcome.next (hostStart_of_legal hb hd))
  have hkeeps := startCommand_keeps i { s with script := [] }
  rw [runSteps_next _ hstart, runSteps_eq_runCore _ hkeeps.script (by rw [hkeeps.cmd]; exact hd),
    exec_of_not_busy (s := { s with script := [] }) hb]

/-- Settles O33: `H_START` refuses an illegal word, and a legal one runs to the end of its operation. -/
theorem twoLevelsAgree : Obligations.TwoLevelsAgree := by
  intro s x hs hb hx
  cases hd : decode s.cmd with
  | error e =>
    refine ⟨0, raise .invalidMethod { s with script := [] }, ?_, ?_⟩
    · exact runSteps_next 0 ((step_host hs).trans (congrArg Host.Outcome.next (hostStart_of_illegal hb hd)))
    · rw [functionLevel_of_illegal hd]
      exact failed_raise _ _
  | ok i =>
    refine ⟨stepBound s.ilen, ?_⟩
    rw [runSteps_start hs hb hd, functionLevel_of_decode hd]
    cases hresult : functionLevel (encode i) x with
    | error e => exact exec_fails (s := { s with script := [] }) hb hx hresult
    | ok y =>
      obtain ⟨t, ht, hend⟩ := exec_ends (s := { s with script := [] }) hb hx hresult
      exact ⟨t, ht, hend.by_capacity⟩

/-- `decompress` undoes `compress`, method by method (R194). -/
theorem decompress_compress {m : BitVec 16} (h : compress x m = .ok y) : decompress y m = .ok x := by
  obtain ⟨-, hdelta, -⟩ := deltaLaws
  unfold compress at h
  unfold decompress
  split at h
  · cases h
    rw [if_pos ‹_›, rleDecode_rleEncode, Option.map_some, hdelta]
    rfl
  split at h
  · cases h
    rw [if_neg ‹_›, if_pos ‹_›, rleDecode_rleEncode]
    rfl
  split at h
  · cases h
    rw [if_neg ‹_›, if_neg ‹_›, if_pos ‹_›, hdelta]
  · cases h

/-- The event `execute` in a state that is not BUSY comes to DONE only by a command that decodes. -/
theorem exec_of_step_execute {t : State} (hb : s.state ≠ .busy) (h : step { s with script := [.execute] } = .next t)
    (hdone : t.state = .done) : ∃ i, decode s.cmd = .ok i ∧ exec i { s with script := [] } = .next t := by
  have hstep : executeCmd { s with script := [] } = .next t := h
  unfold executeCmd at hstep
  split at hstep
  case h_1 e hd =>
    cases hstep
    rw [hostStart_of_illegal (s := { s with script := [] }) hb hd] at hdone
    cases hdone
  case h_2 i hd => exact ⟨i, hd, hstep⟩

theorem step_execute (hd : decode s.cmd = .ok i) :
    step { s with script := [.execute] } = exec i { s with script := [] } := by
  change executeCmd { s with script := [] } = _
  rw [executeCmd, show decode (State.cmd { s with script := [] }) = .ok i from hd]

/-- An operation that has ended in DONE has its function-level result (R185). -/
theorem Ended.result_of_done {t : State} {y' : ByteSeq} (h : Ended i x y s t) (hdone : t.state = .done)
    (hresult : t.result = some y') : y' = y := by
  by_cases hsuff : capacitiesSuffice s.params i x y = true
  · obtain ⟨-, -, -, hy⟩ := (h.succeeded hsuff).finished
    exact Option.some.inj (hresult.symm.trans hy)
  · cases hdone.symm.trans (h.failed hsuff).1

end

/-- Each of the three methods has a result for every input (R170). -/
theorem compress_ok (x : ByteSeq) {m : BitVec 16} (hm : m = 0x3031#16 ∨ m = 0x3032#16 ∨ m = 0x3033#16) :
    ∃ y, compress x m = .ok y := by
  obtain rfl | rfl | rfl := hm <;> exact ⟨_, rfl⟩

theorem functionLevel_of_compress {c : Cmd} (h : cmdDir c = 0#1) (x : ByteSeq) :
    functionLevel c x = compress x (cmdMethod c) := if_pos h

theorem functionLevel_of_decompress {c : Cmd} (h : cmdDir c = 1#1) (x : ByteSeq) :
    functionLevel c x = decompress x (cmdMethod c) := if_neg (by simp [h])

/-- Settles O60: the function level's round trip, which the hardware follows where the capacities suffice. -/
theorem globalRoundTrip : Obligations.GlobalRoundTrip := by
  refine ⟨fun x m hm => ⟨?_, ?_⟩, fun s t u x y j hb hdir hx ht hdone hy hbu hdiru hmethod hyu hd hcap => ?_⟩
  · obtain ⟨y, hy⟩ := compress_ok x hm
    exact ⟨y, hy, decompress_compress hy⟩
  · obtain rfl | rfl | rfl := hm <;> exact ⟨rfl, rfl⟩
  · obtain ⟨i, hi, hexec⟩ := exec_of_step_execute hb ht hdone
    have hcompress : compress x (cmdMethod s.cmd) = .ok y := by
      obtain ⟨z, hz⟩ : ∃ z, compress x (cmdMethod s.cmd) = .ok z := by
        obtain ⟨-, hsel⟩ := fields_of_decode hi
        refine compress_ok x ?_
        rw [hsel]
        cases i <;> decide
      have hlevel : functionLevel (encode i) x = .ok z := by
        rw [← functionLevel_of_decode hi, functionLevel_of_compress hdir, hz]
      obtain ⟨t', ht', hend⟩ := exec_ends (s := { s with script := [] }) hb hx hlevel
      cases hexec.symm.trans ht'
      rw [hz, hend.result_of_done hdone hy]
    have hlevel : functionLevel (encode j) y = .ok x := by
      rw [← functionLevel_of_decode hd, functionLevel_of_decompress hdiru, hmethod, decompress_compress hcompress]
    obtain ⟨w, hw, hend⟩ := exec_ends (s := { u with script := [] }) hbu hyu hlevel
    exact ⟨w, (step_execute hd).trans hw, (hend.succeeded hcap).finished⟩

end Sys2Proof.Machine

/-! # Entering ERROR (R201, R205)

`H_START` and a core step each enter ERROR by `raise` alone. -/

namespace Sys2Proof.Machine

section
variable {i : Instr} {s t : State}

/-- `H_START` is ignored, raises, or starts the operation (R178). -/
theorem hostStart_cases (s : State) :
    hostStart s = s ∨ (∃ e, e ≠ .none ∧ hostStart s = raise e s) ∨ hostStart s = beginOperation s := by
  rw [hostStart_eq]
  split
  · exact .inl rfl
  split
  · exact .inr (.inl ⟨.invalidMethod, nofun, rfl⟩)
  split
  · exact .inr (.inl ⟨.malformedRLEStream, nofun, rfl⟩)
  split
  · exact .inr (.inl ⟨.capacityExceeded, nofun, rfl⟩)
  · exact .inr (.inr rfl)

/-- A core step raises `CapacityExceeded`, or leaves ERR as it is and does not enter ERROR (R205, R206). -/
theorem coreStep_raises (h : coreStep i s = .next t) :
    t = raise .capacityExceeded s ∨ t.err = s.err ∧ (t.state = s.state ∨ t.state = .done) := by
  obtain ⟨st, -, ht⟩ := coreStep_next h
  cases ht
  case full => exact .inl rfl
  case ended =>
    obtain ⟨_, e⟩ | ⟨_, e⟩ := stageDone_cases i s <;> rw [e]
    · exact .inr ⟨rfl, .inr rfl⟩
    · exact .inr ⟨rfl, .inl rfl⟩
  all_goals exact .inr ⟨by simp, .inl (by simp)⟩

/-- The core's turn enters ERROR only by raising `CapacityExceeded`. -/
theorem coreTurn_raises (h : coreTurn s = .next t) (ht : t.state = .error) (hs : s.state ≠ .error) :
    t = raise .capacityExceeded s := by
  unfold coreTurn at h
  split at h
  · split at h
    · cases h
    · refine (coreStep_raises h).resolve_right fun ⟨_, hstate⟩ => ?_
      obtain hkept | hdone := hstate
      · exact hs (hkept ▸ ht)
      · cases ht.symm.trans hdone
  · cases h
    exact absurd ht hs

/-- An illegal word takes `InvalidMethod` at `H_START`, and a whole operation of it is that `H_START` (R85, R201). -/
theorem step_of_illegal {e : Event} {rest : List Event} {r : Reject} (hs : s.script = e :: rest)
    (he : e = .host .start ∨ e = .execute) (hb : s.state ≠ .busy) (hd : decode s.cmd = .error r) :
    step s = .next (raise .invalidMethod { s with script := rest }) := by
  have hstart := hostStart_of_illegal (s := { s with script := rest }) hb hd
  obtain rfl | rfl := he
  · exact (step_host hs).trans (congrArg Host.Outcome.next hstart)
  · have hstep : step s = executeCmd { s with script := rest } := by rw [step, hs]; rfl
    rw [hstep, executeCmd, show decode (State.cmd { s with script := rest }) = .error r from hd, ← hstart]

end

/-- Settles O21: both ways into ERROR are a raise. -/
theorem errorEntryWritesThreeFields : Obligations.ErrorEntryWritesThreeFields := by
  intro s t h ht hs
  refine ⟨fun rest hscript => ?_, fun hscript => ?_⟩
  · have hstart : hostStart { s with script := rest } = t := Host.Outcome.next.inj ((step_host hscript).symm.trans h)
    obtain hsame | ⟨e, he, hraise⟩ | hbegin := hostStart_cases { s with script := rest }
    · exact absurd (show s.state = .error by rw [← ht, ← hstart, hsame]) hs
    · rw [← hstart, hraise]
      exact ⟨rfl, he⟩
    · rw [← hstart, hbegin] at ht
      cases ht
  · rw [step, hscript] at h
    exact coreTurn_raises h ht hs

/-- Settles O37: the selectors the decoder rejects are the illegal ones. -/
theorem illegalMethodRaisesInvalidMethod : Obligations.IllegalMethodRaisesInvalidMethod :=
  fun _ _ _ hs he hb h₁ h₂ h₃ =>
    step_of_illegal hs he hb (decode_eq_error_iff (e := .invalidMethod).2 ⟨h₁, h₂, h₃⟩)

end Sys2Proof.Machine

/-! # No partial result (R207)

With the input written, an operation ends as R185 says. With a byte of it unwritten the core never gets past that byte:
it stays in stage 0, where every step uses up some of a bounded amount of work, so that an operation that does not fault
can only fail. -/

namespace Sys2Proof.Machine

theorem Memory.exists_read_of_readSeq_none {m : Memory} {a n : Nat} (h : m.readSeq a n = none) :
    ∃ k, k < n ∧ m.read (a + k) = none := by
  by_contra hall
  simp only [not_exists, not_and, ← ne_eq, Option.ne_none_iff_exists'] at hall
  choose! f hf using hall
  have hsome : m.readSeq a n = some ((List.range n).map f) :=
    (Memory.readSeq_eq_some m a n _).2 ⟨by simp, fun k hk => by simp [hf k hk, hk]⟩
  cases h.symm.trans hsome

/-- A bound on the core steps left in a stage: a byte of the source is worth more than the 255 copies a record can ask
for, and more than the count of an open run. -/
def State.workLeft (s : State) : Nat := 256 * (s.slen - s.rp) + s.rem.toNat + s.cnt.toNat

section
variable {i : Instr} {st : Stage} {s t : State}

theorem workLeft_lt_of_read (hl : s.rp < s.slen) (hslen : t.slen = s.slen) (hrp : s.rp < t.rp)
    (hcount : t.rem.toNat + t.cnt.toNat < s.rem.toNat + s.cnt.toNat + 256) : t.workLeft < s.workLeft := by
  rw [State.workLeft, State.workLeft, hslen]
  omega

theorem workLeft_lt_of_counted (hslen : t.slen = s.slen) (hrp : t.rp = s.rp)
    (hcount : t.rem.toNat + t.cnt.toNat < s.rem.toNat + s.cnt.toNat) : t.workLeft < s.workLeft := by
  rw [State.workLeft, State.workLeft, hslen, hrp]
  omega

/-- A step of a stage raises, ends the stage once the source is exhausted, or uses up work. -/
theorem StageStepTo.progress (h : StageStepTo i st s t) :
    t = raise .capacityExceeded s ∨ (¬s.rp < s.slen ∧ t = stageDone i s) ∨
      (t.state = s.state ∧ t.stg = s.stg ∧ t.slen = s.slen ∧ t.workLeft < s.workLeft) := by
  cases h
  case full => exact .inl rfl
  case ended hl _ _ => exact .inr (.inl ⟨hl, rfl⟩)
  all_goals refine .inr (.inr ⟨by simp, by simp, by simp, ?_⟩)
  case denc hl _ _ => exact workLeft_lt_of_read hl (by simp) (by simp) (by simp)
  case ddec hl _ _ => exact workLeft_lt_of_read hl (by simp) (by simp) (by simp)
  case opened hl _ _ => exact workLeft_lt_of_read hl (by simp) (by simp) (by simp; omega)
  case grown hl _ _ _ => exact workLeft_lt_of_read hl (by simp) (by simp) (by simp; omega)
  case turned hl _ _ _ _ => exact workLeft_lt_of_read hl (by simp) (by simp) (by simp; omega)
  case parsed n _ _ hl _ _ =>
    have hn := n.isLt
    exact workLeft_lt_of_read hl (by simp) (by simp) (by simp; omega)
  case closed hc _ =>
    have hrun : 0 < s.cnt.toNat := Nat.pos_of_ne_zero fun hzero => hc (BitVec.eq_of_toNat_eq hzero)
    exact workLeft_lt_of_counted (by simp) (by simp) (by simpa)
  case copied hc _ =>
    have hrem := toNat_rem_sub_one hc
    exact workLeft_lt_of_counted (by simp) (by simp) (by simp [hrem]; omega)

/-- A step of a stage moves RP only past bytes it has read. -/
theorem StageStepTo.read_of_passed (h : StageStepTo i st s t) {k : Nat} (hk : s.rp ≤ k) (hlt : k < t.rp) :
    s.memRead st.src k ≠ none := by
  have hnext {b : Byte} (hb : s.memRead st.src s.rp = some b) (hrp : t.rp = s.rp + 1) : s.memRead st.src k ≠ none := by
    obtain rfl : k = s.rp := by omega
    simp [hb]
  have hstays (hrp : t.rp ≤ s.rp) : s.memRead st.src k ≠ none := by omega
  cases h
  case denc hb _ => exact hnext hb (by simp)
  case ddec hb _ => exact hnext hb (by simp)
  case opened hb _ => exact hnext hb (by simp)
  case grown hb _ _ => exact hnext hb (by simp)
  case turned hb _ _ _ => exact hnext hb (by simp)
  case parsed hv hn =>
    rw [State.takeRecord_rp] at hlt
    obtain rfl | rfl : k = s.rp ∨ k = s.rp + 1 := by omega
    · simp [hv]
    · simp [hn]
  case closed => exact hstays (by simp)
  case copied => exact hstays (by simp)
  case full => exact hstays (by simp)
  case ended => obtain ⟨_, e⟩ | ⟨_, e⟩ := stageDone_cases i s <;> exact hstays (by simp [e])

end

/-- The core is in stage 0 of an operation, and byte `a` of the input, which is unwritten, is still ahead of it. -/
structure AwaitsByte (a : Nat) (s : State) : Prop where
  busy : s.state = .busy
  stg : s.stg = 0
  slen : s.slen = s.ilen
  ahead : s.rp ≤ a
  within : a < s.ilen
  unwritten : s.ibuf.read a = none

section
variable {a n : Nat} {i : Instr} {s t : State}

/-- Stage 0 reads IBUF. -/
theorem AwaitsByte.memRead_src {st : Stage} (h : AwaitsByte a s) (ha : activeStage i s = some st) :
    s.memRead st.src a = none := by
  obtain ⟨st₀, ha₀, hsrc, -⟩ := activeStage_beginOperation i s
  rw [activeStage_congr (s := s) h.stg.symm, ha] at ha₀
  cases ha₀
  rw [hsrc]
  exact h.unwritten

/-- A core step before the unwritten byte raises, or uses up work and stays before it. -/
theorem AwaitsByte.coreStep (h : AwaitsByte a s) (hs : coreStep i s = .next t) :
    t = raise .capacityExceeded s ∨ AwaitsByte a t ∧ t.workLeft < s.workLeft := by
  have hkeeps := coreStep_keeps hs
  obtain ⟨st, ha, ht⟩ := coreStep_next hs
  obtain hraise | ⟨hend, -⟩ | ⟨hstate, hstg, hslen, hwork⟩ := ht.progress
  · exact .inl hraise
  · exact absurd (h.slen ▸ Nat.lt_of_le_of_lt h.ahead h.within) hend
  · refine .inr ⟨?_, hwork⟩
    exact {
      busy := hstate.trans h.busy
      stg := hstg.trans h.stg
      slen := hslen.trans (h.slen.trans hkeeps.ilen.symm)
      ahead := Nat.le_of_not_lt fun hlt => ht.read_of_passed h.ahead hlt (h.memRead_src ha)
      within := hkeeps.ilen.symm ▸ h.within
      unwritten := hkeeps.ibuf.symm ▸ h.unwritten }

/-- With more core steps than work left, a run before the unwritten byte that does not fault has failed. -/
theorem AwaitsByte.runCore (h : AwaitsByte a s) (hn : s.workLeft < n) (hs : runCore i n s = .next t) :
    Failed t .capacityExceeded := by
  induction n generalizing s with
  | zero => cases hn
  | succ n ih =>
    cases hstep : Machine.coreStep i s with
    | next u =>
      rw [runCore_step n h.busy hstep] at hs
      obtain rfl | ⟨hu, hwork⟩ := h.coreStep hstep
      · rw [runCore_not_busy n (by simp)] at hs
        cases hs
        exact failed_raise _ s
      · exact ih hu (by omega) hs
    | fault f => rw [Machine.runCore, if_pos h.busy, hstep] at hs; cases hs
    | refused r => rw [Machine.runCore, if_pos h.busy, hstep] at hs; cases hs

/-- A whole operation raises one of two errors at once, or is the run of the operation it starts (R178). -/
theorem exec_cases (hb : s.state ≠ .busy) :
    exec i s = .next (raise .malformedRLEStream s) ∨ exec i s = .next (raise .capacityExceeded s) ∨
      exec i s = runCore i (stepBound s.ilen) (beginOperation s) := by
  rw [exec_of_not_busy hb, startCommand]
  split
  · exact .inl (runCore_not_busy _ (by simp))
  split
  · exact .inr (.inr rfl)
  · exact .inr (.inl (runCore_not_busy _ (by simp)))

/-- Started on an input with an unwritten byte, the core has that byte ahead of it. -/
theorem awaitsByte_beginOperation (ha : a < s.ilen) (hread : s.ibuf.read a = none) : AwaitsByte a (beginOperation s) :=
  ⟨rfl, rfl, rfl, Nat.zero_le a, ha, hread⟩

theorem workLeft_beginOperation (s : State) : (beginOperation s).workLeft = 256 * s.ilen := by
  simp [State.workLeft]

/-- An operation on an input that is not wholly written fails, if it does not fault. -/
theorem exec_fails_of_unwritten (hb : s.state ≠ .busy) (hx : s.input = none) (h : exec i s = .next t) :
    ∃ e, e ≠ .none ∧ Failed t e := by
  obtain ⟨a, ha, hread⟩ := Memory.exists_read_of_readSeq_none hx
  rw [Nat.zero_add] at hread
  obtain hexec | hexec | hexec := exec_cases (i := i) hb <;> rw [hexec] at h
  · cases h
    exact ⟨.malformedRLEStream, nofun, failed_raise _ s⟩
  · cases h
    exact ⟨.capacityExceeded, nofun, failed_raise _ s⟩
  · refine ⟨.capacityExceeded, nofun, (awaitsByte_beginOperation ha hread).runCore ?_ h⟩
    rw [workLeft_beginOperation, stepBound]
    omega

/-- An operation on a written input succeeds with its function-level result, or fails (R185). -/
theorem exec_ends_of_written {x : ByteSeq} (hb : s.state ≠ .busy) (hx : s.input = some x) (h : exec i s = .next t) :
    (∃ y, functionLevel (encode i) x = .ok y ∧ Finished t y) ∨ ∃ e, e ≠ .none ∧ Failed t e := by
  cases hy : functionLevel (encode i) x with
  | error e =>
    obtain ⟨u, hu, hfailed⟩ := exec_fails hb hx hy
    cases h.symm.trans hu
    obtain ⟨rfl, -⟩ := functionLevel_encode_eq_error_iff.1 hy
    exact .inr ⟨.malformedRLEStream, nofun, hfailed⟩
  | ok y =>
    obtain ⟨u, hu, hend⟩ := exec_ends hb hx hy
    cases h.symm.trans hu
    have hrow := hend.by_capacity
    split at hrow
    · exact .inl ⟨y, rfl, hrow⟩
    · exact .inr ⟨.capacityExceeded, nofun, hrow⟩

/-- The errors an operation can end with, and what `MalformedRLEStream` changes (R196, R205). -/
theorem exec_err (hb : s.state ≠ .busy) (h : exec i s = .next t) :
    t = raise .malformedRLEStream s ∨ t.err = .capacityExceeded ∨ t.err = .none := by
  obtain hexec | hexec | hexec := exec_cases (i := i) hb <;> rw [hexec] at h
  · cases h
    exact .inl rfl
  · cases h
    exact .inr (.inl rfl)
  · refine .inr (runCore_induction (P := fun t => t.err = .capacityExceeded ∨ t.err = .none) (fun u v _ hu huv => ?_)
      (.inr rfl) h)
    obtain rfl | ⟨herr, -⟩ := coreStep_raises huv
    · exact .inl rfl
    · rwa [herr]

end

/-- Settles O49: an operation on a written input ends as R185 says, and one on an input with an unwritten byte fails. -/
theorem noPartialResult : Obligations.NoPartialResult := by
  refine ⟨fun i s t hb h => ?_, fun s e rest hs he hb hd => step_of_illegal hs he hb hd⟩
  have hkeeps : CoreKeeps s t := operation_keeps ((exec_eq_operation i s).symm.trans h)
  have herr := exec_err hb h
  refine ⟨?_, hkeeps.cmd, hkeeps.ilen, hkeeps.ibuf, fun hmalformed => ?_, ?_⟩
  · cases hx : s.input with
    | none => exact .inr (exec_fails_of_unwritten hb hx h)
    | some x =>
      refine (exec_ends_of_written hb hx h).imp_left ?_
      rintro ⟨y, hy, hfin⟩
      exact ⟨x, y, rfl, hy, hfin⟩
  · obtain hraise | hcap | hnone := herr
    · exact hraise
    · cases hmalformed.symm.trans hcap
    · cases hmalformed.symm.trans hnone
  · obtain rfl | hcap | hnone := herr
    · nofun
    · simp [hcap]
    · simp [hnone]

end Sys2Proof.Machine

/-! # Reset as an event (R230, R231)

The step of a reset is `resetEvent` in the state without its event, so BUSY plays no part. -/

namespace Sys2Proof.Machine

theorem step_reset {rest : List Event} {s : State} (hs : s.script = .reset :: rest) :
    step s = .next (resetEvent { s with script := rest }) := by
  rw [step, hs]
  rfl

@[simp] theorem resetEvent_statusWord (s : State) : (resetEvent s).statusWord = 0x00#8 := by
  rw [State.statusWord, resetEvent_err, resetEvent_state]
  rfl

/-- Settles O5: the step is `resetEvent`, whose register lemmas give the values of R230. -/
theorem resetEventEffect : Obligations.ResetEventEffect := fun _ _ hs =>
  ⟨_, step_reset hs, resetEvent_cmd _, resetEvent_ilen _, resetEvent_olen _, resetEvent_state _, resetEvent_err _,
    resetEvent_statusWord _, resetEvent_script _⟩

end Sys2Proof.Machine

/-! # Decode and encode (R80, R84, R85)

A command word is its two fields side by side, so that it decodes to the command whose direction and selector they are. -/

namespace Sys2Proof

/-- A command word is DIR followed by METHOD (R80). -/
theorem cmdDir_append_cmdMethod (c : Cmd) : cmdDir c ++ cmdMethod c = c :=
  BitVec.extractLsb'_append_extractLsb'_eq_extractLsb' (x := c) rfl |>.trans (BitVec.extractLsb'_eq_self)

theorem eq_encode_iff_fields {c : Cmd} {i : Instr} : c = encode i ↔ cmdDir c = i.dir ∧ cmdMethod c = i.selector := by
  constructor
  · rintro rfl
    exact ⟨cmdDir_encode i, cmdMethod_encode i⟩
  · rintro ⟨hdir, hmethod⟩
    rw [← cmdDir_append_cmdMethod c, hdir, hmethod, encode]

theorem decode_eq_ok_iff_eq_encode {c : Cmd} {i : Instr} : decode c = .ok i ↔ c = encode i :=
  ⟨fun h => eq_encode_iff_fields.2 (fields_of_decode h), fun h => h ▸ decode_encode i⟩

/-- Settles O2: a word is determined by its fields, and those of a word that decodes are its command's. -/
theorem decodeExactlyEncodings : Obligations.DecodeExactlyEncodings := fun _ _ =>
  ⟨decode_eq_ok_iff_eq_encode, decode_eq_ok_iff_eq_encode.trans eq_encode_iff_fields, decode_eq_error_iff⟩

/-- Settles O1: each word is written out. -/
theorem commandWordsDecode : Obligations.CommandWordsDecode := by
  unfold Obligations.CommandWordsDecode
  decide

/-- A table word that is a command is, cut to 17 bits, that command's encoding. -/
theorem ofNat_eq_encode_of_decodeTableWord {n w : Nat} {i : Instr} (h : decodeTableWord n w = some i) :
    BitVec.ofNat 17 (w % 2 ^ n) = encode i := by
  simp only [decodeTableWord] at h
  split at h
  case isFalse => cases h
  case isTrue =>
    split at h
    · rename_i hd
      cases h
      exact decode_eq_ok_iff_eq_encode.1 hd
    · cases h

end Sys2Proof

/-! # The step of a decoded command (R8, R67, R181) -/

namespace Sys2Proof.Machine

section
variable {i : Instr} {s : State}

theorem coreTurn_of_busy (hb : s.state = .busy) (hd : decode s.cmd = .ok i) : coreTurn s = coreStep i s := by
  rw [coreTurn, if_pos hb, hd]

theorem coreTurn_of_not_busy (hb : s.state ≠ .busy) : coreTurn s = .next s := if_neg hb

theorem executeCmd_of_legal (hd : decode s.cmd = .ok i) : executeCmd s = exec i s := by
  rw [executeCmd, hd]

theorem executeCmd_of_illegal {e : Reject} (hd : decode s.cmd = .error e) : executeCmd s = .next (hostStart s) := by
  rw [executeCmd, hd]

theorem exec_of_busy (hb : s.state = .busy) : exec i s = .next s := by
  rw [exec_eq_operation, operation, if_pos hb]

theorem step_of_empty (hs : s.script = []) : step s = coreTurn s := by rw [step, hs]

theorem step_of_event {e : Event} {rest : List Event} (hs : s.script = e :: rest) :
    step s = event e { s with script := rest } := by rw [step, hs]

end

/-- Settles O42: the event, or its absence, gives the decoded command or the core its turn. -/
theorem stepRunsDecodedCommand : Obligations.StepRunsDecodedCommand := fun s _ hd =>
  ⟨fun rest hs => (step_of_event hs).trans (executeCmd_of_legal (s := { s with script := rest }) hd),
    fun hs hb => (step_of_empty hs).trans (coreTurn_of_busy hb hd),
    fun rest hs hb => (step_of_event hs).trans (coreTurn_of_busy (s := { s with script := rest }) hb hd),
    fun hs hb => (step_of_empty hs).trans (coreTurn_of_not_busy hb)⟩

/-- Settles O32: the operation is ignored. -/
theorem commandIgnoredWhileBusy : Obligations.CommandIgnoredWhileBusy := fun _ _ => exec_of_busy

/-- Settles O43: the placed word is the command's encoding, and the placed event runs it. -/
theorem placedCommandRunsNext : Obligations.PlacedCommandRunsNext := by
  intro s n w i h
  have hplaced : s.withFetchWord n w = placeCommand (encode i) s := by
    rw [State.withFetchWord, ofNat_eq_encode_of_decodeTableWord h]
  rw [hplaced, step_of_event (s := placeCommand (encode i) s) rfl]
  exact executeCmd_of_legal (decode_encode i)

/-- Settles O38: the parity check comes before the first core step, and before the bytes of IBUF (R178, R202). -/
theorem oddStreamRaisesMalformed : Obligations.OddStreamRaisesMalformed := by
  intro i s hi hb hodd
  have hp : parityChecked i = true := by obtain rfl | rfl := hi <;> rfl
  refine ⟨?_, fun rest hs hd => ?_⟩
  · rw [exec_of_not_busy hb, startCommand_of_odd hp hodd]
    exact runCore_not_busy _ (by simp)
  · rw [step_host hs, hostOp_start, hostStart_of_legal (s := { s with script := rest }) hb hd]
    exact congrArg Host.Outcome.next (startCommand_of_odd (s := { s with script := rest }) hp hodd)

/-- Settles O8: the length is no operand of `H_WRITE_ILEN` (R187). -/
theorem tooWideLengthRefused : Obligations.TooWideLengthRefused := by
  intro s n rest hs hn
  rw [step_host hs, hostOp, if_neg (by simp [HostOp.wf, hn])]

/-- Settles O4: each register is read off the state after reset. -/
theorem resetVisibleRegisters : Obligations.ResetVisibleRegisters :=
  ⟨rfl, rfl, rfl, rfl, rfl, by decide, by decide⟩

end Sys2Proof.Machine

/-! # The invariant of a running stage (R30, R31, R58 to R60, R181)

`Running` is what `State.Inv` says of a BUSY state, with the command and the stage it is in named, and without what each
stage kind keeps of its own registers (`kindOk`). The small updates a core step is made of each keep it. -/

namespace Sys2Proof.Machine

/-- The machine is BUSY in a stage of the command in CMD, and all is as the invariant says. -/
structure Running (i : Instr) (st : Stage) (s : State) : Prop where
  buffers : s.BuffersOk
  lengths : s.LengthsOk
  err : s.err = .none
  olen : s.olen = 0
  busy : s.state = .busy
  decoded : decode s.cmd = .ok i
  active : activeStage i s = some st
  slen : s.slen = if s.stg = 0 then s.ilen else s.mlen
  slen_within : lengthWithin s.slen (Params.cap s.params st.src) = true
  rp_le : s.rp ≤ s.slen
  wp_within : lengthWithin s.wp (Params.cap s.params st.dst) = true
  produced : ((s.buffer st.dst).readSeq 0 s.wp).isSome = true
  intermediate : s.stg = 0 ∨ (s.mbuf.readSeq 0 s.slen).isSome = true

section
variable {i : Instr} {st : Stage} {s : State}

/-- What `busyOk` says, where the command and its stage are known. -/
theorem busyOk_iff (hd : decode s.cmd = .ok i) (ha : activeStage i s = some st) :
    busyOk s = true ↔
      s.slen = (if s.stg = 0 then s.ilen else s.mlen) ∧ lengthWithin s.slen (Params.cap s.params st.src) = true ∧
        s.rp ≤ s.slen ∧ lengthWithin s.wp (Params.cap s.params st.dst) = true ∧
        ((s.buffer st.dst).readSeq 0 s.wp).isSome = true ∧
        (s.stg = 0 ∨ (s.mbuf.readSeq 0 s.slen).isSome = true) ∧ kindOk st.kind s = true := by
  simp only [busyOk, hd, ha, Bool.and_eq_true, Bool.or_eq_true, decide_eq_true_eq, and_assoc]

/-- A BUSY state that meets the invariant is in a stage of a command (R181). -/
theorem exists_stage_of_busyOk (h : busyOk s = true) :
    ∃ i st, decode s.cmd = .ok i ∧ activeStage i s = some st := by
  cases hd : decode s.cmd with
  | error e => simp [busyOk, hd] at h
  | ok i =>
    cases ha : activeStage i s with
    | none => simp [busyOk, hd, ha] at h
    | some st => exact ⟨i, st, rfl, ha⟩

theorem running_of_inv (h : s.Inv) (hb : s.state = .busy) : ∃ i st, Running i st s ∧ kindOk st.kind s = true := by
  obtain ⟨hbuffers, hlengths, ⟨herr, holen, _⟩, hbusy⟩ := h
  obtain ⟨i, st, hd, ha⟩ := exists_stage_of_busyOk (hbusy hb)
  obtain ⟨hslen, hwithin, hrp, hwp, hproduced, hmid, hkind⟩ := (busyOk_iff hd ha).1 (hbusy hb)
  exact ⟨i, st, ⟨hbuffers, hlengths, herr.2 (by simp [hb]), holen (by simp [hb]), hb, hd, ha, hslen, hwithin, hrp, hwp,
    hproduced, hmid⟩, hkind⟩

theorem Running.inv (h : Running i st s) (hk : kindOk st.kind s = true) : s.Inv :=
  ⟨h.buffers, h.lengths, ⟨by simp [h.err, h.busy], fun _ => h.olen, by simp [h.busy]⟩, fun _ =>
    (busyOk_iff h.decoded h.active).2
      ⟨h.slen, h.slen_within, h.rp_le, h.wp_within, h.produced, h.intermediate, hk⟩⟩

end

/-! Lengths and the width `LEN_W` (R6, R11). -/

section
variable {p : Params} {m n : Nat}

@[simp] theorem lengthFits_zero (p : Params) : p.lengthFits 0 = true := by
  unfold Params.lengthFits
  split
  · rfl
  · exact decide_eq_true (Nat.two_pow_pos _)

theorem lengthFits_mono (h : p.lengthFits n = true) (hm : m ≤ n) : p.lengthFits m = true := by
  unfold Params.lengthFits at h ⊢
  split at h
  · rfl
  · exact decide_eq_true (hm.trans_lt (of_decide_eq_true h))

/-- R6 leaves room in `LEN_W` bits for every capacity, so that no pointer into a buffer wraps. -/
theorem lengthFits_of_lengthWithin (hwf : p.wf = true) {sp : Space} (h : lengthWithin n (Params.cap p sp) = true) :
    p.lengthFits n = true := by
  have hcap : p.capFits (Params.cap p sp) = true := by
    simp only [Params.wf, Bool.and_eq_true] at hwf
    obtain ⟨⟨hicap, hmcap⟩, hocap⟩ := hwf
    cases sp
    · exact hicap
    · exact hmcap
    · exact hocap
  unfold Params.capFits at hcap
  unfold Params.lengthFits
  split at hcap
  case h_1 hw => rw [hw]
  case h_2 => cases hcap
  case h_3 hw hc =>
    rw [hc] at h
    rw [hw]
    have hle := of_decide_eq_true h
    have hlt := of_decide_eq_true hcap
    exact decide_eq_true (by omega)

end

/-! A write into a buffer (R50 to R53, R58). -/

section
variable {s : State} {sp : Space} {a : Nat}

theorem withinCapacity_write {m : Memory} {c : Option Nat} (v : Byte) (h : withinCapacity m c = true)
    (ha : indexFits a c = true) : withinCapacity (m.write a v) c = true := by
  refine List.all_eq_true.2 fun cell hcell => ?_
  obtain rfl | hmem := Memory.mem_write hcell
  · exact ha
  · exact List.all_eq_true.1 h cell hmem

theorem buffersOk_iff :
    s.BuffersOk ↔ ∀ sp, Memory.wf (s.buffer sp) = true ∧ withinCapacity (s.buffer sp) (Params.cap s.params sp) = true := by
  constructor
  · rintro ⟨hi, hm, ho, hicap, hmcap, hocap⟩ sp
    cases sp
    · exact ⟨hi, hicap⟩
    · exact ⟨hm, hmcap⟩
    · exact ⟨ho, hocap⟩
  · intro h
    exact ⟨(h .ibuf).1, (h .mbuf).1, (h .obuf).1, (h .ibuf).2, (h .mbuf).2, (h .obuf).2⟩

theorem buffersOk_memWrite (h : s.BuffersOk) (v : Byte) (hroom : s.hasRoom sp a = true) : (s.memWrite sp a v).BuffersOk := by
  rw [buffersOk_iff] at h ⊢
  intro sp'
  rw [State.buffer_memWrite, State.memWrite_params]
  split
  · subst sp'
    exact ⟨Memory.write_wf _ _ _ (h sp).1, withinCapacity_write v (h sp).2 hroom⟩
  · exact h sp'

theorem lengthsOk_memWrite (v : Byte) (h : s.LengthsOk) : (s.memWrite sp a v).LengthsOk := by
  simpa [State.LengthsOk] using h

end

/-! The updates a core step is made of. -/

section
variable {i : Instr} {st st₁ : Stage} {s : State}

/-- Stage 0 of a schedule reads IBUF (R180). -/
theorem activeStage_src_of_stageZero (ha : activeStage i s = some st) (hstg : s.stg = 0) : st.src = .ibuf := by
  rw [activeStage, hstg] at ha
  cases i <;> cases ha <;> rfl

/-- Stage 1 of a schedule reads MBUF (R180). -/
theorem activeStage_src_of_stageOne (ha : activeStage i s = some st) (hstg : s.stg ≠ 0) : st.src = .mbuf := by
  have hone : s.stg = 1 := by omega
  rw [activeStage, hone] at ha
  cases i <;> cases ha <;> rfl

/-- Stage 0 of two writes MBUF (R180). -/
theorem activeStage_dst_of_not_last (ha : activeStage i s = some st) (hl : s.stg.val + 1 ≠ (sched i).length) :
    st.dst = .mbuf := by
  obtain ⟨st₁, ha₁, hsrc, -⟩ := activeStage_enterStageOne ha hl
  exact hsrc.symm.trans (activeStage_src_of_stageOne ha₁ (by simp))

/-- A byte produced within the capacity keeps the stage running (R58, R60). -/
theorem Running.push (h : Running i st s) (v : Byte) (hroom : s.hasRoom st.dst s.wp = true) :
    Running i st (s.push st.dst v) := by
  have hwithin : lengthWithin (s.wp + 1) (Params.cap s.params st.dst) = true := (lengthWithin_succ ..).trans hroom
  obtain ⟨hwf, hilen, holen, hslen, hmlen, hrp, -⟩ := h.lengths
  obtain ⟨x, hx⟩ := Option.isSome_iff_exists.1 h.produced
  exact {
    buffers := buffersOk_memWrite h.buffers v hroom
    lengths := by
      have hwp := lengthFits_of_lengthWithin hwf hwithin
      simp [State.LengthsOk, State.push, *]
    err := by simp [State.push, h.err]
    olen := by simp [State.push, h.olen]
    busy := by simp [State.push, h.busy]
    decoded := by simp [State.push, h.decoded]
    active := (activeStage_congr (by simp [State.push])).trans h.active
    slen := by simpa [State.push] using h.slen
    slen_within := by simpa [State.push] using h.slen_within
    rp_le := by simpa [State.push] using h.rp_le
    wp_within := by simpa [State.push] using hwithin
    produced := Option.isSome_iff_exists.2 ⟨_, State.Produced.push (t := s) hx v⟩
    intermediate := by
      by_cases hstg : s.stg = 0
      · simp [State.push, hstg]
      · have hsrc := activeStage_src_of_stageOne h.active hstg
        have hne : st.dst ≠ .mbuf := hsrc ▸ (activeStage_spaces h.active).2.1.symm
        have hkept : (s.push st.dst v).mbuf = s.mbuf := by
          have := s.buffer_memWrite st.dst .mbuf s.wp v
          rwa [if_neg hne.symm] at this
        rw [hkept]
        simpa [State.push] using h.intermediate }

theorem Running.pushRecord (h : Running i st s) (hroom : s.hasRoom st.dst (s.wp + 1) = true) :
    Running i st (s.pushRecord st.dst) := by
  have hwithin : lengthWithin (s.wp + 2) (Params.cap s.params st.dst) = true := (lengthWithin_succ ..).trans hroom
  have hfirst : s.hasRoom st.dst s.wp = true := indexFits_of_lengthWithin hwithin (by omega)
  refine (h.push s.cur hfirst).push s.cnt ?_
  simpa [State.hasRoom, State.push] using hroom

/-- RP moves on within the source (R31). -/
theorem Running.consumed (h : Running i st s) {n : Nat} (hn : s.rp + n ≤ s.slen) : Running i st (s.consumed n) := by
  obtain ⟨hwf, hilen, holen, hslen, hmlen, -, hwp⟩ := h.lengths
  exact { h with lengths := ⟨hwf, hilen, holen, hslen, hmlen, lengthFits_mono hslen hn, hwp⟩, rp_le := hn }

theorem Running.withPrev (h : Running i st s) (b : Byte) : Running i st (s.withPrev b) := { h with }

theorem Running.withAcc (h : Running i st s) (o : Byte) : Running i st (s.withAcc o) := { h with }

theorem Running.openRun (h : Running i st s) (hl : s.rp < s.slen) (b : Byte) : Running i st (s.openRun b) :=
  { h.consumed (n := 1) hl with }

theorem Running.growRun (h : Running i st s) (hl : s.rp < s.slen) : Running i st s.growRun :=
  { h.consumed (n := 1) hl with }

theorem Running.closeRun (h : Running i st s) : Running i st s.closeRun := { h with }

theorem Running.countedOff (h : Running i st s) : Running i st s.countedOff := { h with }

theorem Running.takeRecord (h : Running i st s) (v n : Byte) (hl : s.rp + 2 ≤ s.slen) :
    Running i st (s.takeRecord v n) := { h.consumed hl with }

/-- The invariant of a state with STATE ERROR: what the buffers and the lengths meet, ERR set and OLEN cleared (R205). -/
theorem inv_raise (hbuffers : s.BuffersOk) (hlengths : s.LengthsOk) {e : Err} (he : e ≠ .none) : (raise e s).Inv := by
  obtain ⟨hwf, hilen, -, hslen, hmlen, hrp, hwp⟩ := hlengths
  exact ⟨hbuffers, ⟨hwf, hilen, lengthFits_zero _, hslen, hmlen, hrp, hwp⟩, ⟨by simp [he], by simp, by simp⟩, by simp⟩

/-- `StageDone` of the last stage: OLEN takes WP, and the bytes below it are written (R183). -/
theorem Running.finishOperation (h : Running i st s) (hl : s.stg.val + 1 = (sched i).length) :
    (finishOperation s).Inv := by
  obtain ⟨hwf, hilen, -, hslen, hmlen, hrp, hwp⟩ := h.lengths
  have hproduced := h.produced
  have hwithin := h.wp_within
  rw [activeStage_last_dst h.active hl] at hproduced hwithin
  exact ⟨h.buffers, ⟨hwf, hilen, hwp, hslen, hmlen, hrp, hwp⟩,
    ⟨by simp [h.err], by simp, fun _ => ⟨hproduced, hwithin⟩⟩, by simp⟩

/-- Right after `StageInit` every stage kind's own registers are as they should be, given an even source for `RDEC`. -/
theorem kindOk_of_start {k : StageKind} (hrp : s.rp = 0) (hwp : s.wp = 0) (hpairs : k = .rdec → s.slen % 2 = 0) :
    kindOk k s = true := by
  cases k <;> simp [kindOk, hrp, hwp]
  exact hpairs rfl

/-- `StageDone` of stage 0 of two: stage 1 runs over the intermediate sequence (R183). -/
theorem Running.enterStageOne (h : Running i st s) (hl : s.stg.val + 1 ≠ (sched i).length) :
    (enterStageOne s).Inv := by
  obtain ⟨hwf, hilen, holen, -, -, -, hwp⟩ := h.lengths
  obtain ⟨st₁, ha, hsrc, hk⟩ := activeStage_enterStageOne h.active hl
  have hproduced := h.produced
  rw [activeStage_dst_of_not_last h.active hl] at hproduced
  refine Running.inv (i := i) (st := st₁) ?_ (kindOk_of_start rfl rfl fun e => absurd e hk)
  exact {
    buffers := h.buffers
    lengths := ⟨hwf, hilen, holen, hwp, hwp, lengthFits_zero _, lengthFits_zero _⟩
    err := h.err
    olen := h.olen
    busy := h.busy
    decoded := h.decoded
    active := ha
    slen := rfl
    slen_within := hsrc ▸ h.wp_within
    rp_le := Nat.zero_le _
    wp_within := lengthWithin_zero _
    produced := rfl
    intermediate := .inr hproduced }

theorem Running.stageDone (h : Running i st s) : (stageDone i s).Inv := by
  obtain ⟨hl, e⟩ | ⟨hl, e⟩ := stageDone_cases i s <;> rw [e]
  · exact h.finishOperation hl
  · exact h.enterStageOne hl

end

end Sys2Proof.Machine

/-! # Every step keeps the invariant

The core's steps by the cases of `StageStepTo`, `H_START` by its branches, the host's writes one by one. -/

namespace Sys2Proof.Machine

/-! The writes of `StageStepTo` as the small updates. -/

section
variable (s : State) (sp : Space)

theorem memWrite_eq_consumed_push (v : Byte) :
    { s.memWrite sp s.wp v with rp := s.rp + 1, wp := s.wp + 1 } = (s.push sp v).consumed 1 := by
  cases sp <;> rfl

theorem memWrite_eq_pushRecord :
    { (s.memWrite sp s.wp s.cur).memWrite sp (s.wp + 1) s.cnt with wp := s.wp + 2 } = s.pushRecord sp := by
  cases sp <;> rfl

theorem memWrite_eq_countedOff_push :
    { s.memWrite sp s.wp s.val with wp := s.wp + 1, rem := s.rem - 1#8 } = (s.push sp s.val).countedOff := by
  cases sp <;> rfl

@[simp] theorem State.push_rp (v : Byte) : (s.push sp v).rp = s.rp := s.memWrite_rp ..

@[simp] theorem State.push_slen (v : Byte) : (s.push sp v).slen = s.slen := s.memWrite_slen ..

@[simp] theorem State.push_wp (v : Byte) : (s.push sp v).wp = s.wp + 1 := rfl

@[simp] theorem State.consumed_rp (n : Nat) : (s.consumed n).rp = s.rp + n := rfl

@[simp] theorem State.consumed_wp (n : Nat) : (s.consumed n).wp = s.wp := rfl

@[simp] theorem State.countedOff_rp : s.countedOff.rp = s.rp := rfl

@[simp] theorem State.countedOff_slen : s.countedOff.slen = s.slen := rfl

@[simp] theorem State.pushRecord_slen : (s.pushRecord sp).slen = s.slen := by simp [State.pushRecord]

end

section
variable {i : Instr} {st : Stage} {s t : State}

/-- A step of a running stage keeps the invariant. -/
theorem Running.step_inv (h : Running i st s) (hk : kindOk st.kind s = true) (ht : StageStepTo i st s t) : t.Inv := by
  cases ht
  case denc b hkind hl hb hr =>
    rw [memWrite_eq_consumed_push]
    refine (((h.push _ hr).consumed (by simpa using hl)).withPrev b).inv ?_
    rw [hkind] at hk ⊢
    simpa [kindOk] using hk
  case ddec b hkind hl hb hr =>
    rw [memWrite_eq_consumed_push]
    refine (((h.push _ hr).consumed (by simpa using hl)).withAcc _).inv ?_
    rw [hkind] at hk ⊢
    simpa [kindOk] using hk
  case opened b hkind hl hb hc =>
    exact (h.openRun hl b).inv (by simp [hkind, kindOk])
  case grown hkind hl hb hc hm =>
    have hrun := runLength_add_one_ne_zero hm
    exact (h.growRun hl).inv (by simp [hkind, kindOk, hrun])
  case turned b hkind hl hb hc hm hr =>
    rw [memWrite_eq_pushRecord]
    exact ((h.pushRecord hr).openRun (by simpa [State.pushRecord_rp] using hl) b).inv (by simp [hkind, kindOk])
  case closed hkind hl hc hr =>
    rw [memWrite_eq_pushRecord]
    have hend : s.rp = s.slen := Nat.le_antisymm h.rp_le (Nat.le_of_not_lt hl)
    exact (h.pushRecord hr).closeRun.inv (by simp [hkind, kindOk, State.pushRecord_rp, hend])
  case copied hkind hc hr =>
    rw [memWrite_eq_countedOff_push]
    refine (h.push s.val hr).countedOff.inv ?_
    rw [hkind] at hk ⊢
    simpa [kindOk] using hk
  case parsed v n hkind hc hl hv hn =>
    rw [hkind] at hk
    obtain ⟨hslen, hrp⟩ : s.slen % 2 = 0 ∧ s.rp % 2 = 0 := of_decide_eq_true hk
    exact (h.takeRecord v n (by omega)).inv (by simp [hkind, kindOk, hslen, hrp])
  case full a ha hr => exact inv_raise h.buffers h.lengths nofun
  case ended hl hc hm => exact h.stageDone

/-- A core step of the command in CMD keeps the invariant. -/
theorem coreStep_inv (h : s.Inv) (hb : s.state = .busy) (hd : decode s.cmd = .ok i) (ht : coreStep i s = .next t) :
    t.Inv := by
  obtain ⟨j, st, hrun, hk⟩ := running_of_inv h hb
  cases hd.symm.trans hrun.decoded
  obtain ⟨st', ha, hstep⟩ := coreStep_next ht
  cases hrun.active.symm.trans ha
  exact hrun.step_inv hk hstep

/-- Between two core steps of the command in CMD the invariant holds, and CMD stays. -/
theorem coreStep_inv_decode (hb : s.state = .busy) (h : s.Inv ∧ decode s.cmd = .ok i) (ht : coreStep i s = .next t) :
    t.Inv ∧ decode t.cmd = .ok i :=
  ⟨coreStep_inv h.1 hb h.2 ht, (coreStep_keeps ht).cmd ▸ h.2⟩

theorem runCore_inv {n : Nat} (h : s.Inv) (hd : decode s.cmd = .ok i) (ht : runCore i n s = .next t) : t.Inv :=
  (runCore_induction (P := fun u => u.Inv ∧ decode u.cmd = .ok i) (fun _ _ hb hu huv => coreStep_inv_decode hb hu huv)
    ⟨h, hd⟩ ht).1

theorem coreTurn_inv (h : s.Inv) (ht : coreTurn s = .next t) : t.Inv := by
  by_cases hb : s.state = .busy
  · obtain ⟨i, st, hrun, -⟩ := running_of_inv h hb
    rw [coreTurn_of_busy hb hrun.decoded] at ht
    exact coreStep_inv h hb hrun.decoded ht
  · rw [coreTurn_of_not_busy hb] at ht
    cases ht
    exact h

/-- An admitted `H_START` is the start of stage 0 over an input that fits IBUF (R178). -/
theorem running_beginOperation (h : s.Inv) (hd : decode s.cmd = .ok i) (ha : activeStage i (beginOperation s) = some st)
    (hfit : lengthWithin s.ilen s.params.icap = true) : Running i st (beginOperation s) := by
  obtain ⟨hbuffers, ⟨hwf, hilen, -, -, hmlen, -, -⟩, -, -⟩ := h
  obtain ⟨_, ha₀, hsrc, -⟩ := activeStage_beginOperation i s
  cases ha.symm.trans ha₀
  exact {
    buffers := hbuffers
    lengths := ⟨hwf, hilen, lengthFits_zero _, hilen, hmlen, lengthFits_zero _, lengthFits_zero _⟩
    err := rfl
    olen := rfl
    busy := rfl
    decoded := hd
    active := ha
    slen := rfl
    slen_within := by rw [hsrc]; exact hfit
    rp_le := Nat.zero_le _
    wp_within := lengthWithin_zero _
    produced := rfl
    intermediate := .inl rfl }

theorem startCommand_inv (h : s.Inv) (hd : decode s.cmd = .ok i) : (startCommand i s).Inv := by
  obtain ⟨hbuffers, hlengths, -, -⟩ := id h
  by_cases hp : parityChecked i = true ∧ s.ilen % 2 = 1
  · rw [startCommand_of_odd hp.1 hp.2]
    exact inv_raise hbuffers hlengths nofun
  cases hfit : lengthWithin s.ilen s.params.icap with
  | false =>
    rw [startCommand_of_full hp hfit]
    exact inv_raise hbuffers hlengths nofun
  | true =>
    rw [startCommand_admitted hp hfit]
    obtain ⟨st, ha, -, hrdec⟩ := activeStage_beginOperation i s
    refine (running_beginOperation h hd ha hfit).inv (kindOk_of_start rfl rfl fun hk => ?_)
    have heven : ¬s.ilen % 2 = 1 := fun hodd => hp ⟨hrdec hk, hodd⟩
    exact Nat.mod_two_ne_one.1 heven

theorem hostStart_inv (h : s.Inv) : (hostStart s).Inv := by
  by_cases hb : s.state = .busy
  · rwa [hostStart_of_busy hb]
  cases hd : decode s.cmd with
  | error e =>
    rw [hostStart_of_illegal hb hd]
    exact inv_raise h.1 h.2.1 nofun
  | ok i =>
    rw [hostStart_of_legal hb hd]
    exact startCommand_inv h hd

theorem exec_inv (h : s.Inv) (hd : decode s.cmd = .ok i) (ht : exec i s = .next t) : t.Inv := by
  by_cases hb : s.state = .busy
  · rw [exec_of_busy hb] at ht
    cases ht
    exact h
  · rw [exec_of_not_busy hb] at ht
    exact runCore_inv (startCommand_inv h hd) ((startCommand_keeps i s).cmd ▸ hd) ht

theorem executeCmd_inv (h : s.Inv) (ht : executeCmd s = .next t) : t.Inv := by
  cases hd : decode s.cmd with
  | error e =>
    rw [executeCmd_of_illegal hd] at ht
    cases ht
    exact hostStart_inv h
  | ok i =>
    rw [executeCmd_of_legal hd] at ht
    exact exec_inv h hd ht

/-- A write of the host keeps the invariant if it does in a state that is not BUSY (R64). -/
theorem unlessBusy_inv {write : State → State} (h : s.Inv) (hw : s.state ≠ .busy → (write s).Inv) :
    (unlessBusy write s).Inv := by
  unfold unlessBusy
  split
  · exact h
  · exact hw ‹_›

theorem hostWriteIbuf_inv (a : Nat) (b : Byte) (h : s.Inv) : (hostWriteIbuf a b s).Inv := by
  refine unlessBusy_inv h fun hb => ?_
  obtain ⟨hbuffers, hlengths, hstatus, -⟩ := id h
  split
  · exact ⟨buffersOk_memWrite hbuffers b ‹_›, lengthsOk_memWrite b hlengths, hstatus, fun hbusy => absurd hbusy hb⟩
  · exact h

theorem hostWriteIlen_inv {n : Nat} (hn : s.params.lengthFits n = true) (h : s.Inv) : (hostWriteIlen n s).Inv := by
  obtain ⟨hbuffers, ⟨hwf, -, hlengths⟩, hstatus, -⟩ := id h
  exact unlessBusy_inv h fun hb => ⟨hbuffers, ⟨hwf, hn, hlengths⟩, hstatus, fun hbusy => absurd hbusy hb⟩

theorem hostWriteCmd_inv (c : Cmd) (h : s.Inv) : (hostWriteCmd c s).Inv := by
  obtain ⟨hbuffers, hlengths, hstatus, -⟩ := id h
  exact unlessBusy_inv h fun hb => ⟨hbuffers, hlengths, hstatus, fun hbusy => absurd hbusy hb⟩

theorem answer_inv (r : Reply) (h : s.Inv) : (s.answer r).Inv := h

theorem drawn_inv (h : s.Inv) : s.drawn.Inv := h

theorem hostReadOlen_inv (h : s.Inv) : (hostReadOlen s).Inv := by
  unfold hostReadOlen
  split
  · exact drawn_inv (answer_inv _ h)
  · exact answer_inv _ h

theorem hostReadObuf_inv (a : Nat) (h : s.Inv) : (hostReadObuf a s).Inv := by
  unfold hostReadObuf
  split
  · exact answer_inv _ h
  · exact drawn_inv (answer_inv _ h)

theorem hostOp_inv {op : HostOp} (h : s.Inv) (ht : hostOp op s = .next t) : t.Inv := by
  unfold hostOp at ht
  split at ht
  case isFalse => cases ht
  case isTrue hwf =>
    cases op <;> cases ht
    case writeIbuf.refl a b => exact hostWriteIbuf_inv a b h
    case writeIlen.refl n => exact hostWriteIlen_inv hwf h
    case writeCmd.refl c => exact hostWriteCmd_inv c h
    case start.refl => exact hostStart_inv h
    case readOlen.refl => exact hostReadOlen_inv h
    case readObuf.refl a => exact hostReadObuf_inv a h
    all_goals exact answer_inv _ h

/-- Reset keeps the parameters, and with them R6's constraint; the rest is as after power-on (R230). -/
theorem resetEvent_inv (h : s.params.wf = true) : (resetEvent s).Inv :=
  ⟨⟨rfl, rfl, rfl, rfl, rfl, rfl⟩,
    ⟨h, lengthFits_zero _, lengthFits_zero _, lengthFits_zero _, lengthFits_zero _, lengthFits_zero _, lengthFits_zero _⟩,
    ⟨by simp, by simp, by simp⟩, by simp⟩

theorem event_inv {e : Event} (h : s.Inv) (ht : event e s = .next t) : t.Inv := by
  cases e with
  | host op => exact hostOp_inv h ht
  | reset =>
    cases ht
    obtain ⟨-, ⟨hwf, -⟩, -, -⟩ := h
    exact resetEvent_inv hwf
  | core => exact coreTurn_inv h ht
  | execute => exact executeCmd_inv h ht

end

/-- Settles O45: a step is the core's turn or the next event of the script, of which the invariant says nothing. -/
theorem stepKeepsInvariant : Obligations.StepKeepsInvariant := by
  intro s t h ht
  cases hs : s.script with
  | nil => exact coreTurn_inv h ((step_of_empty hs).symm.trans ht)
  | cons e rest => exact event_inv (s := { s with script := rest }) h ((step_of_event hs).symm.trans ht)

/-- Settles O44: the reset event in the state after power-on gives that state again (R230). -/
theorem invariantAtReset : Obligations.InvariantAtReset := resetEvent_inv (s := State.reset) rfl

end Sys2Proof.Machine

/-! # Faults (R59, R181, R233)

A step of a stage faults exactly where it is to read an unwritten byte; under the invariant that byte is one of the input. -/

namespace Sys2Proof.Machine

section
variable {i : Instr} {st : Stage} {s t : State} {f : Fault}

theorem dencStep_eq_fault_iff :
    dencStep i st s = .fault f ↔ f = .unwrittenByte ∧ s.rp < s.slen ∧ s.memRead st.src s.rp = none := by
  by_cases hl : s.rp < s.slen
  · cases hb : s.memRead st.src s.rp <;> simp [dencStep, State.sourceLeft, hl, hb, eq_comm]
  · simp [dencStep_of_end hl, hl]

theorem ddecStep_eq_fault_iff :
    ddecStep i st s = .fault f ↔ f = .unwrittenByte ∧ s.rp < s.slen ∧ s.memRead st.src s.rp = none := by
  by_cases hl : s.rp < s.slen
  · cases hb : s.memRead st.src s.rp <;> simp [ddecStep, State.sourceLeft, hl, hb, eq_comm]
  · simp [ddecStep_of_end hl, hl]

theorem rencStep_eq_fault_iff :
    rencStep i st s = .fault f ↔ f = .unwrittenByte ∧ s.rp < s.slen ∧ s.memRead st.src s.rp = none := by
  by_cases hl : s.rp < s.slen
  · cases hb : s.memRead st.src s.rp with
    | none => simp [rencStep, State.sourceLeft, hl, hb, eq_comm]
    | some b =>
      simp only [rencStep, State.sourceLeft, hl, hb, decide_true, if_true]
      split
      · simp
      · split <;> simp
  · by_cases hc : s.cnt = 0#8
    · simp [rencStep_of_end hl hc, hl]
    · simp [rencStep_of_closing hl hc, hl]

theorem rdecStep_eq_fault_iff :
    rdecStep i st s = .fault f ↔ f = .unwrittenByte ∧ s.rp < s.slen ∧ s.rem = 0#8 ∧
      (s.memRead st.src s.rp = none ∨ s.memRead st.src (s.rp + 1) = none) := by
  by_cases hc : s.rem = 0#8
  · by_cases hl : s.rp < s.slen
    · cases hv : s.memRead st.src s.rp <;> cases hn : s.memRead st.src (s.rp + 1) <;>
        simp [rdecStep, State.copiesPending, State.sourceLeft, hc, hl, hv, hn, eq_comm]
    · simp [rdecStep_of_end hc hl, hl]
  · have hpending : 0 < s.rem.toNat := Nat.pos_of_ne_zero fun hzero => hc (BitVec.eq_of_toNat_eq hzero)
    simp [rdecStep_of_pending hpending, hc]

/-- A step of a stage faults exactly where it is to read a byte and that byte, or the second one of a record, is
unwritten (R157, R233). -/
theorem stageStep_eq_fault_iff :
    stageStep i st s = .fault f ↔ f = .unwrittenByte ∧ s.rp < s.slen ∧ (st.kind = .rdec → s.rem = 0#8) ∧
      (s.memRead st.src s.rp = none ∨ st.kind = .rdec ∧ s.memRead st.src (s.rp + 1) = none) := by
  rw [stageStep]
  cases hk : st.kind
  case denc => simpa [hk] using dencStep_eq_fault_iff
  case ddec => simpa [hk] using ddecStep_eq_fault_iff
  case renc => simpa [hk] using rencStep_eq_fault_iff
  case rdec => simpa [hk] using rdecStep_eq_fault_iff

/-- A step of a running stage faults only on an unwritten byte of the input: the intermediate sequence is written
(R59, R60). -/
theorem Running.fault (h : Running i st s) (hk : kindOk st.kind s = true) (hf : stageStep i st s = .fault f) :
    f = .unwrittenByte ∧ ∃ a, a < s.ilen ∧ s.ibuf.read a = none := by
  obtain ⟨rfl, hl, -, hread⟩ := stageStep_eq_fault_iff.1 hf
  obtain ⟨a, ha, hnone⟩ : ∃ a, a < s.slen ∧ s.memRead st.src a = none := by
    obtain hnone | ⟨hkind, hnone⟩ := hread
    · exact ⟨_, hl, hnone⟩
    · rw [hkind] at hk
      obtain ⟨hslen, hrp⟩ : s.slen % 2 = 0 ∧ s.rp % 2 = 0 := of_decide_eq_true hk
      exact ⟨_, by omega, hnone⟩
  refine ⟨rfl, a, ?_⟩
  have hslen := h.slen
  by_cases hstg : s.stg = 0
  · rw [if_pos hstg] at hslen
    rw [activeStage_src_of_stageZero h.active hstg] at hnone
    exact ⟨hslen ▸ ha, hnone⟩
  · exfalso
    obtain ⟨x, hx⟩ := Option.isSome_iff_exists.1 (h.intermediate.resolve_left hstg)
    rw [activeStage_src_of_stageOne h.active hstg, State.memRead, State.buffer, Memory.read_of_readSeq hx ha,
      List.getElem?_eq_none_iff, Memory.length_of_readSeq hx] at hnone
    omega

theorem coreStep_fault (h : s.Inv) (hb : s.state = .busy) (hd : decode s.cmd = .ok i)
    (hf : coreStep i s = .fault f) : f = .unwrittenByte ∧ ∃ a, a < s.ilen ∧ s.ibuf.read a = none := by
  obtain ⟨j, st, hrun, hk⟩ := running_of_inv h hb
  cases hd.symm.trans hrun.decoded
  rw [coreStep, hrun.active] at hf
  exact hrun.fault hk hf

theorem coreTurn_fault (h : s.Inv) (hf : coreTurn s = .fault f) :
    f = .unwrittenByte ∧ ∃ a, a < s.ilen ∧ s.ibuf.read a = none := by
  by_cases hb : s.state = .busy
  · obtain ⟨i, st, hrun, -⟩ := running_of_inv h hb
    rw [coreTurn_of_busy hb hrun.decoded] at hf
    exact coreStep_fault h hb hrun.decoded hf
  · rw [coreTurn_of_not_busy hb] at hf
    cases hf

theorem runCore_fault {n : Nat} (h : s.Inv) (hd : decode s.cmd = .ok i) (hf : runCore i n s = .fault f) :
    f = .unwrittenByte ∧ ∃ a, a < s.ilen ∧ s.ibuf.read a = none := by
  induction n generalizing s with
  | zero => cases hf
  | succ n ih =>
    by_cases hb : s.state = .busy
    · rw [runCore, if_pos hb] at hf
      split at hf
      case h_1 u hu =>
        have hkeeps := coreStep_keeps hu
        have hnext := ih (coreStep_inv h hb hd hu) (hkeeps.cmd ▸ hd) hf
        rwa [hkeeps.ilen, hkeeps.ibuf] at hnext
      case h_2 g hg =>
        cases hf
        exact coreStep_fault h hb hd hg
      case h_3 => cases hf
    · rw [runCore_not_busy _ hb] at hf
      cases hf

theorem executeCmd_fault (h : s.Inv) (hf : executeCmd s = .fault f) :
    f = .unwrittenByte ∧ ∃ a, a < s.ilen ∧ s.ibuf.read a = none := by
  cases hd : decode s.cmd with
  | error e =>
    rw [executeCmd_of_illegal hd] at hf
    cases hf
  | ok i =>
    rw [executeCmd_of_legal hd] at hf
    by_cases hb : s.state = .busy
    · rw [exec_of_busy hb] at hf
      cases hf
    · have hkeeps := startCommand_keeps i s
      rw [exec_of_not_busy hb] at hf
      have hrun := runCore_fault (startCommand_inv h hd) (hkeeps.cmd ▸ hd) hf
      rwa [hkeeps.ilen, hkeeps.ibuf] at hrun

theorem hostOp_not_fault (op : HostOp) (s : State) (f : Fault) : hostOp op s ≠ .fault f := by
  unfold hostOp
  split
  · cases op <;> nofun
  · nofun

/-- Under the invariant the only fault of a step is that of an unwritten byte of the input. -/
theorem step_fault (h : s.Inv) (hf : step s = .fault f) :
    f = .unwrittenByte ∧ ∃ a, a < s.ilen ∧ s.ibuf.read a = none := by
  cases hs : s.script with
  | nil => exact coreTurn_fault h ((step_of_empty hs).symm.trans hf)
  | cons e rest =>
    rw [step_of_event hs] at hf
    cases e with
    | host op => exact absurd hf (hostOp_not_fault op _ f)
    | reset => cases hf
    | core => exact coreTurn_fault (s := { s with script := rest }) h hf
    | execute => exact executeCmd_fault (s := { s with script := rest }) h hf

/-- A byte of a written input has a value. -/
theorem read_ne_none_of_input {a : Nat} (hx : s.input.isSome = true) (ha : a < s.ilen) : s.ibuf.read a ≠ none := by
  obtain ⟨x, hx⟩ := Option.isSome_iff_exists.1 hx
  rw [Memory.read_of_readSeq hx ha, Ne, List.getElem?_eq_none_iff, Memory.length_of_readSeq hx]
  omega

end

/-- Settles O20: the step is one of the active stage, and under the invariant the unwritten byte is one of the input. -/
theorem unwrittenInputFaults : Obligations.UnwrittenInputFaults := by
  refine ⟨fun i st s hs hb hd ha hrem hl => ?_, fun s h hf => (step_fault h hf).2⟩
  rw [step_eq_stageStep hs hb hd ha]
  exact ⟨fun hnone => stageStep_eq_fault_iff.2 ⟨rfl, hl, hrem, .inl hnone⟩,
    fun hk hnone => stageStep_eq_fault_iff.2 ⟨rfl, hl, hrem, .inr ⟨hk, hnone⟩⟩⟩

/-- Settles O46: the one fault a step can have is another one, and needs an unwritten byte of the input. -/
theorem noFaultOnWrittenInput : Obligations.NoFaultOnWrittenInput := fun _ h =>
  ⟨fun hf => Fault.noConfusion (step_fault h hf).1, fun hx _ hf =>
    have ⟨_, _, ha, hnone⟩ := step_fault h hf
    read_ne_none_of_input hx ha hnone⟩

/-! # Every operation ends (R184)

With the input written no core step faults, and each ends the operation, enters stage 1 or uses up work of its stage. -/

/-- A core step ends the operation, or goes on in the same stage with less work left, or enters stage 1. -/
theorem coreStep_progress {i : Instr} {s t : State} (h : coreStep i s = .next t) :
    t.state = .error ∨ t.state = .done ∨ t.stg.val = s.stg.val ∧ t.workLeft < s.workLeft ∨
      s.stg.val = 0 ∧ t.stg.val = 1 := by
  obtain ⟨st, ha, ht⟩ := coreStep_next h
  obtain rfl | ⟨-, rfl⟩ | ⟨-, hstg, -, hwork⟩ := ht.progress
  · exact .inl rfl
  · obtain ⟨-, e⟩ | ⟨hl, e⟩ := stageDone_cases i s
    · rw [e]
      exact .inr (.inl rfl)
    · have hlt : s.stg.val < (sched i).length := (List.getElem?_eq_some_iff.1 ha).1
      have htwo := sched_length_le_two i
      rw [e]
      exact .inr (.inr (.inr ⟨by omega, rfl⟩))
  · exact .inr (.inr (.inl ⟨by rw [hstg], hwork⟩))

/-- Where the machine is BUSY and the input written, the core takes a step. -/
theorem exists_coreStep {s : State} (h : s.Inv) (hb : s.state = .busy) (hx : s.input.isSome = true) :
    ∃ i t, decode s.cmd = .ok i ∧ coreStep i s = .next t := by
  obtain ⟨i, st, hrun, -⟩ := running_of_inv h hb
  refine ⟨i, ?_⟩
  cases hstep : coreStep i s with
  | next t => exact ⟨t, hrun.decoded, rfl⟩
  | fault f =>
    obtain ⟨-, a, ha, hnone⟩ := coreStep_fault h hb hrun.decoded hstep
    exact absurd hnone (read_ne_none_of_input hx ha)
  | refused r => exact absurd hstep (coreStep_not_refused i s r)

/-- From a BUSY state the core reaches DONE or ERROR, by induction on the stages left and the work left in this one. -/
theorem runSteps_reaches_end {s : State} (h : s.Inv) (hb : s.state = .busy) (hs : s.script = []) (hx : s.input.isSome = true) :
    ∃ k t, runSteps k s = .next t ∧ (t.state = .done ∨ t.state = .error) := by
  obtain ⟨i, t, hd, hstep⟩ := exists_coreStep h hb hx
  have hkeeps := coreStep_keeps hstep
  have hnext : step s = .next t := (step_of_empty hs).trans ((coreTurn_of_busy hb hd).trans hstep)
  by_cases hend : t.state = .done ∨ t.state = .error
  · exact ⟨1, t, runSteps_next 0 hnext, hend⟩
  have hbusy : t.state = .busy := by
    obtain rfl | ⟨-, hstate | hdone⟩ := coreStep_raises hstep
    · exact absurd (.inr rfl) hend
    · exact hstate.trans hb
    · exact absurd (.inl hdone) hend
  have hdecr : t.stg.val = s.stg.val ∧ t.workLeft < s.workLeft ∨ s.stg.val = 0 ∧ t.stg.val = 1 := by
    simpa [hbusy] using coreStep_progress hstep
  have hinput : t.input.isSome = true := by rwa [State.input, hkeeps.ibuf, hkeeps.ilen]
  obtain ⟨k, u, hu, hfin⟩ :=
    runSteps_reaches_end (coreStep_inv h hb hd hstep) hbusy (hkeeps.script.trans hs) hinput
  exact ⟨k + 1, u, (runSteps_next k hnext).trans hu, hfin⟩
termination_by (1 - s.stg.val, s.workLeft)
decreasing_by
  obtain ⟨hstg, hwork⟩ | ⟨hzero, hone⟩ := hdecr
  · rw [hstg]
    exact Prod.Lex.right _ hwork
  · exact Prod.Lex.left _ _ (by omega)

/-- Settles O35: the run from the state itself. -/
theorem everyOperationEnds : Obligations.EveryOperationEnds := fun _ => runSteps_reaches_end

end Sys2Proof.Machine

/-! # The transitions of STATE (R25)

Host operations other than `H_START` keep STATE; the rest is what `H_START`, a core step and a whole operation end in. -/

namespace Sys2Proof.Machine

section
variable {i : Instr} {s t : State}

theorem hostStart_state (hb : s.state ≠ .busy) : (hostStart s).state = .busy ∨ (hostStart s).state = .error := by
  cases hd : decode s.cmd with
  | error e => exact .inr (by rw [hostStart_of_illegal hb hd, raise_state])
  | ok i =>
    rw [hostStart_of_legal hb hd, startCommand]
    split
    · exact .inr rfl
    split
    · exact .inl rfl
    · exact .inr rfl

theorem unlessBusy_state {write : State → State} (hw : ∀ s, (write s).state = s.state) (s : State) :
    (unlessBusy write s).state = s.state := by
  unfold unlessBusy
  split
  · rfl
  · exact hw s

/-- A host operation other than `H_START` keeps STATE (R25). -/
theorem hostOp_state {op : HostOp} (hop : op ≠ .start) (h : hostOp op s = .next t) : t.state = s.state := by
  unfold hostOp at h
  split at h
  case isFalse => cases h
  case isTrue =>
    cases op <;> cases h
    case writeIbuf.refl a b _ => exact unlessBusy_state (fun s => by split <;> simp) s
    case writeIlen.refl n _ => exact unlessBusy_state (write := fun s => { s with ilen := n }) (fun _ => rfl) s
    case writeCmd.refl c _ => exact unlessBusy_state (write := fun s => { s with cmd := c }) (fun _ => rfl) s
    case start.refl => exact absurd rfl hop
    case readOlen.refl => unfold hostReadOlen; split <;> rfl
    case readObuf.refl a _ => unfold hostReadObuf; split <;> rfl
    all_goals rfl

theorem coreTurn_state (h : coreTurn s = .next t) :
    if s.state = .busy then t.state = .busy ∨ t.state = .done ∨ t.state = .error else t.state = s.state := by
  by_cases hb : s.state = .busy
  · rw [if_pos hb]
    rw [coreTurn, if_pos hb] at h
    split at h
    case h_1 => cases h
    case h_2 =>
      obtain rfl | ⟨-, hstate | hdone⟩ := coreStep_raises h
      · exact .inr (.inr rfl)
      · exact .inl (hstate.trans hb)
      · exact .inr (.inl hdone)
  · rw [if_neg hb]
    rw [coreTurn_of_not_busy hb] at h
    cases h
    rfl

/-- A whole operation from a state that is not BUSY ends in DONE or ERROR (R184, R207). -/
theorem executeCmd_state (h : executeCmd s = .next t) :
    if s.state = .busy then t.state = .busy else t.state = .done ∨ t.state = .error := by
  obtain ⟨hends, -⟩ := noPartialResult
  cases hd : decode s.cmd with
  | error e =>
    rw [executeCmd_of_illegal hd] at h
    cases h
    split
    · rwa [hostStart_of_busy ‹_›]
    · exact .inr (by rw [hostStart_of_illegal ‹_› hd, raise_state])
  | ok i =>
    rw [executeCmd_of_legal hd] at h
    split
    · rename_i hb
      rw [exec_of_busy hb] at h
      cases h
      exact hb
    · rename_i hb
      obtain ⟨⟨_, _, -, -, hdone, -⟩ | ⟨_, -, herror, -⟩, -⟩ := hends i s t hb h
      · exact .inl hdone
      · exact .inr herror

end

/-- Settles O47: the step by the event it takes. -/
theorem stateTransitions : Obligations.StateTransitions := by
  intro s t h
  rcases hs : s.script with _ | ⟨e, rest⟩
  · exact coreTurn_state ((step_of_empty hs).symm.trans h)
  rw [step_of_event hs] at h
  cases e with
  | host op =>
    by_cases hop : op = .start
    · subst hop
      cases h
      change if s.state = .busy then _ else _
      split
      · rwa [hostStart_of_busy (s := { s with script := rest }) ‹_›]
      · exact hostStart_state (s := { s with script := rest }) ‹_›
    · have hstate : t.state = s.state := hostOp_state (s := { s with script := rest }) hop h
      cases op
      case start => exact absurd rfl hop
      all_goals exact hstate
  | reset => cases h; rfl
  | core => exact coreTurn_state (s := { s with script := rest }) h
  | execute => exact executeCmd_state (s := { s with script := rest }) h

/-! # A whole operation as `H_START` and core turns (R178, R181)

Only the script tells a run of core turns from `runCore`. -/

/-- As many core turns as the script holds are that many core steps, whatever comes after them. -/
theorem runSteps_coreTurns {i : Instr} (k : Nat) {s : State} (hd : decode s.cmd = .ok i) :
    runSteps k (s.relabel s.cmd (List.replicate k .core ++ s.script)) = runCore i k s := by
  induction k generalizing s with
  | zero => rfl
  | succ k ih =>
    have hturn : step (s.relabel s.cmd (List.replicate (k + 1) .core ++ s.script)) =
        coreTurn (s.relabel s.cmd (List.replicate k .core ++ s.script)) := rfl
    by_cases hb : s.state = .busy
    · have hcore := hturn.trans (coreTurn_of_busy hb hd)
      rw [coreStep_relabel] at hcore
      rw [runCore, if_pos hb]
      cases hstep : coreStep i s with
      | next t =>
        rw [hstep] at hcore
        have hkeeps := coreStep_keeps hstep
        rw [runSteps_next k hcore, ← hkeeps.cmd, ← hkeeps.script]
        exact ih (hkeeps.cmd ▸ hd)
      | fault f => rw [hstep] at hcore; exact runSteps_fault k hcore
      | refused r => exact absurd hstep (coreStep_not_refused i s r)
    · rw [runSteps_next k (hturn.trans (coreTurn_of_not_busy hb)), ih hd, runCore_not_busy _ hb, runCore_not_busy _ hb]

/-- A whole operation is `H_START` and as many core turns as its bound, or none where `H_START` starts nothing. -/
theorem exists_coreTurns_eq_executeCmd (s : State) :
    ∃ k, runSteps k (hostStart (s.relabel s.cmd (List.replicate k .core ++ s.script))) = executeCmd s := by
  cases hd : decode s.cmd with
  | error e => exact ⟨0, (executeCmd_of_illegal hd).symm⟩
  | ok i =>
    rw [executeCmd_of_legal hd]
    by_cases hb : s.state = .busy
    · exact ⟨0, (congrArg Host.Outcome.next (hostStart_of_busy hb)).trans (exec_of_busy hb).symm⟩
    · refine ⟨stepBound s.ilen, ?_⟩
      have hkeeps := startCommand_keeps i s
      have hturns := runSteps_coreTurns (stepBound s.ilen) (s := startCommand i s) (hkeeps.cmd ▸ hd)
      rw [hkeeps.cmd, hkeeps.script, ← startCommand_relabel] at hturns
      rw [exec_of_not_busy hb, ← hturns]
      exact congrArg (runSteps _) (hostStart_of_legal hb hd)

/-- Settles O34: the first step is `H_START` in the state without its event. -/
theorem executeIsStartThenCoreSteps : Obligations.ExecuteIsStartThenCoreSteps := by
  intro s rest
  obtain ⟨k, hk⟩ := exists_coreTurns_eq_executeCmd { s with script := rest }
  exact ⟨k, (runSteps_next k rfl).trans hk⟩

/-! # Which command raises what (R196, R202, R206) -/

section
variable {i : Instr} {n : Nat} {s t : State}

/-- A core step raises `CapacityExceeded` only where the capacity it writes against is finite (R58). -/
theorem coreStep_err_of_unbounded (hp : ∀ sp, Params.cap s.params sp = none) (h : coreStep i s = .next t) :
    t.err = s.err := by
  obtain ⟨st, -, ht⟩ := coreStep_next h
  cases ht
  case full a _ hr => simp [State.hasRoom, hp, indexFits] at hr
  case ended => obtain ⟨_, e⟩ | ⟨_, e⟩ := stageDone_cases i s <;> rw [e] <;> rfl
  all_goals simp

/-- An operation under infinite capacities raises no `CapacityExceeded`. -/
theorem exec_err_of_unbounded (hp : ∀ sp, Params.cap s.params sp = none) (hb : s.state ≠ .busy)
    (h : exec i s = .next t) : t.err ≠ .capacityExceeded := by
  rw [exec_of_not_busy hb] at h
  have hstart : (startCommand i s).err ≠ .capacityExceeded := by
    have hicap : s.params.icap = none := hp .ibuf
    rw [startCommand, hicap]
    split
    · nofun
    · nofun
  have hparams : ∀ sp, Params.cap (startCommand i s).params sp = none := by
    rwa [(startCommand_keeps i s).params]
  refine (runCore_induction (P := fun u => (∀ sp, Params.cap u.params sp = none) ∧ u.err ≠ .capacityExceeded)
    (fun u v _ hu huv => ?_) ⟨hparams, hstart⟩ h).2
  obtain ⟨hcap, herr⟩ := hu
  rw [(coreStep_keeps huv).params, coreStep_err_of_unbounded hcap huv]
  exact ⟨hcap, herr⟩

/-- `MalformedRLEStream` is the parity check's error, and no other (R202). -/
theorem exec_malformed_iff (hb : s.state ≠ .busy) (h : exec i s = .next t) :
    t.err = .malformedRLEStream ↔ parityChecked i = true ∧ s.ilen % 2 = 1 := by
  by_cases hp : parityChecked i = true ∧ s.ilen % 2 = 1
  · rw [exec_of_not_busy hb, startCommand_of_odd hp.1 hp.2, runCore_not_busy _ (by simp)] at h
    cases h
    simp [hp]
  · refine iff_of_false (fun herr => ?_) hp
    rw [exec_of_not_busy hb] at h
    have hstart : (startCommand i s).err = .capacityExceeded ∨ (startCommand i s).err = .none := by
      rw [startCommand, if_neg (by simpa using hp)]
      split
      · exact .inr rfl
      · exact .inl rfl
    have hend : t.err = .capacityExceeded ∨ t.err = .none := by
      refine runCore_induction (P := fun u => u.err = .capacityExceeded ∨ u.err = .none) (fun u v _ hu huv => ?_)
        hstart h
      obtain rfl | ⟨hkept, -⟩ := coreStep_raises huv
      · exact .inl rfl
      · rwa [hkept]
    simp [herr] at hend

theorem parityChecked_iff : parityChecked i = true ↔ i = .decompressDeltaRle ∨ i = .decompressRleOnly := by
  cases i <;> decide

end

/-- Settles O36: `CapacityExceeded` needs a finite capacity, `MalformedRLEStream` the parity check, and there is no third. -/
theorem whichCommandRaisesWhat : Obligations.WhichCommandRaisesWhat := by
  intro i s t hb h
  refine ⟨?_, by rw [exec_malformed_iff hb h, parityChecked_iff], fun herr => ?_⟩
  · obtain rfl | herr | herr := exec_err hb h
    · nofun
    · simp [herr]
    · simp [herr]
  · by_contra hnone
    simp only [not_or, not_not] at hnone
    obtain ⟨hicap, hmcap, hocap⟩ := hnone
    exact exec_err_of_unbounded (fun | .ibuf => hicap | .mbuf => hmcap | .obuf => hocap) hb h herr

end Sys2Proof.Machine

/-! # What a command leaves unchanged (R42, R172 to R177, R205)

A run stores bytes from the start of a buffer on: `State.stored` says how many, and `RunFrame` that it has touched nothing
beyond them. -/

namespace Sys2Proof.Machine

/-- How many bytes a run of `i` has stored in a buffer: WP in the active stage's destination, MLEN in MBUF once stage 0
has ended, and none elsewhere. -/
def State.stored (i : Instr) (u : State) (sp : Space) : Nat :=
  match activeStage i u with
  | none => 0
  | some st => if sp = st.dst then u.wp else if sp = .mbuf ∧ u.stg = 1 then u.mlen else 0

/-- From index `n` on, which is within the capacity, the buffer `m` reads as that of `s`, and is that of `s` where `n`
is 0. -/
structure KeptFrom (s : State) (sp : Space) (n : Nat) (m : Memory) : Prop where
  reads : ∀ a, n ≤ a → m.read a = s.memRead sp a
  untouched : n = 0 → m = s.buffer sp
  within : lengthWithin n (Params.cap s.params sp) = true

/-- What a run of `i` started in `s` has left unchanged on the way to `u`. -/
structure RunFrame (i : Instr) (s u : State) : Prop where
  active : (activeStage i u).isSome = true
  params : u.params = s.params
  cur : (∀ st ∈ sched i, st.kind ≠ .renc) → u.cur = s.cur
  val : (∀ st ∈ sched i, st.kind ≠ .rdec) → u.val = s.val
  mlen : u.stg = 0 → u.mlen = s.mlen
  kept : ∀ sp, KeptFrom s sp (u.stored i sp) (u.buffer sp)

section
variable {i : Instr} {st : Stage} {s u v t : State} {sp : Space}

theorem stored_eq (ha : activeStage i u = some st) :
    u.stored i sp = if sp = st.dst then u.wp else if sp = .mbuf ∧ u.stg = 1 then u.mlen else 0 := by
  rw [State.stored, ha]

theorem stored_push (ha : activeStage i u = some st) (b : Byte) :
    (u.push st.dst b).stored i sp = if sp = st.dst then u.wp + 1 else u.stored i sp := by
  have hpush : activeStage i (u.push st.dst b) = some st := (activeStage_congr (by simp [State.push])).trans ha
  rw [stored_eq hpush, stored_eq ha]
  split
  · rfl
  · simp [State.push]

theorem RunFrame.push (h : RunFrame i s u) (ha : activeStage i u = some st) (b : Byte)
    (hroom : u.hasRoom st.dst u.wp = true) : RunFrame i s (u.push st.dst b) where
  active := by rw [activeStage_congr (s := u) (by simp [State.push]), ha]; rfl
  params := (u.memWrite_params ..).trans h.params
  cur hk := (u.memWrite_cur ..).trans (h.cur hk)
  val hk := (u.memWrite_val ..).trans (h.val hk)
  mlen := by simpa [State.push] using h.mlen
  kept sp := by
    have hkept := h.kept sp
    have hbuffer : (u.push st.dst b).buffer sp = if sp = st.dst then (u.buffer st.dst).write u.wp b else u.buffer sp :=
      u.buffer_memWrite st.dst sp u.wp b
    rw [stored_push ha, hbuffer]
    split
    · subst sp
      rw [stored_eq ha, if_pos rfl] at hkept
      refine ⟨fun a hle => ?_, nofun, (lengthWithin_succ ..).trans (h.params ▸ hroom)⟩
      exact (Memory.read_write_other _ b (by omega)).trans (hkept.reads a (by omega))
    · exact hkept

theorem RunFrame.pushRecord (h : RunFrame i s u) (ha : activeStage i u = some st)
    (hroom : u.hasRoom st.dst (u.wp + 1) = true) : RunFrame i s (u.pushRecord st.dst) := by
  have hfirst : u.hasRoom st.dst u.wp = true :=
    indexFits_of_lengthWithin (n := u.wp + 2) ((lengthWithin_succ ..).trans hroom) (by omega)
  refine (h.push ha u.cur hfirst).push ((activeStage_congr (by simp [State.push])).trans ha) u.cnt ?_
  simpa [State.hasRoom, State.push] using hroom

theorem RunFrame.consumed (h : RunFrame i s u) (n : Nat) : RunFrame i s (u.consumed n) := { h with }

theorem RunFrame.withPrev (h : RunFrame i s u) (b : Byte) : RunFrame i s (u.withPrev b) := { h with }

theorem RunFrame.withAcc (h : RunFrame i s u) (o : Byte) : RunFrame i s (u.withAcc o) := { h with }

theorem RunFrame.growRun (h : RunFrame i s u) : RunFrame i s u.growRun := { h with }

theorem RunFrame.closeRun (h : RunFrame i s u) : RunFrame i s u.closeRun := { h with }

theorem RunFrame.countedOff (h : RunFrame i s u) : RunFrame i s u.countedOff := { h with }

theorem RunFrame.raise (h : RunFrame i s u) (e : Err) : RunFrame i s (raise e u) := { h with }

theorem RunFrame.finishOperation (h : RunFrame i s u) : RunFrame i s (finishOperation u) := { h with }

/-- Only a schedule with a `RENC` stage opens runs. -/
theorem RunFrame.openRun (h : RunFrame i s u) (hk : ∃ st ∈ sched i, st.kind = .renc) (b : Byte) :
    RunFrame i s (u.openRun b) :=
  have ⟨st, hmem, hkind⟩ := hk
  { h with cur := fun hnone => absurd hkind (hnone st hmem) }

/-- Only a schedule with an `RDEC` stage takes records. -/
theorem RunFrame.takeRecord (h : RunFrame i s u) (hk : ∃ st ∈ sched i, st.kind = .rdec) (v n : Byte) :
    RunFrame i s (u.takeRecord v n) :=
  have ⟨st, hmem, hkind⟩ := hk
  { h with val := fun hnone => absurd hkind (hnone st hmem) }

/-- `StageDone` of stage 0 turns the WP bytes of MBUF into MLEN bytes (R183). -/
theorem RunFrame.enterStageOne (h : RunFrame i s u) (ha : activeStage i u = some st)
    (hl : u.stg.val + 1 ≠ (sched i).length) : RunFrame i s (enterStageOne u) := by
  obtain ⟨st₁, ha₁, hsrc, -⟩ := activeStage_enterStageOne ha hl
  have hmbuf : st.dst = .mbuf := activeStage_dst_of_not_last ha hl
  have hdst : Space.mbuf ≠ st₁.dst := (hsrc.trans hmbuf) ▸ (activeStage_spaces ha₁).2.1
  refine { h with active := by rw [ha₁]; rfl, mlen := nofun, kept := fun sp => ?_ }
  have hkept := h.kept sp
  rw [stored_eq ha, hmbuf] at hkept
  rw [stored_eq ha₁]
  by_cases hsp : sp = .mbuf
  · subst hsp
    rw [if_pos rfl] at hkept
    rw [if_neg hdst, if_pos ⟨rfl, rfl⟩]
    exact hkept
  · simp only [hsp, false_and, if_false] at hkept
    simp only [hsp, false_and, if_false, enterStageOne_wp, ite_self]
    exact hkept

theorem RunFrame.step (h : RunFrame i s u) (ha : activeStage i u = some st) (ht : StageStepTo i st u v) :
    RunFrame i s v := by
  have hmem : st ∈ sched i := List.mem_of_getElem? ha
  cases ht
  case denc b _ _ _ hr => rw [memWrite_eq_consumed_push]; exact ((h.push ha _ hr).consumed 1).withPrev b
  case ddec b _ _ _ hr => rw [memWrite_eq_consumed_push]; exact ((h.push ha _ hr).consumed 1).withAcc _
  case opened b hk _ _ _ => exact h.openRun ⟨st, hmem, hk⟩ b
  case grown => exact h.growRun
  case turned b hk _ _ _ _ hr => rw [memWrite_eq_pushRecord]; exact (h.pushRecord ha hr).openRun ⟨st, hmem, hk⟩ b
  case closed _ _ _ hr => rw [memWrite_eq_pushRecord]; exact (h.pushRecord ha hr).closeRun
  case copied _ _ hr => rw [memWrite_eq_countedOff_push]; exact (h.push ha _ hr).countedOff
  case parsed v n hk _ _ _ _ => exact h.takeRecord ⟨st, hmem, hk⟩ v n
  case full => exact h.raise _
  case ended =>
    obtain ⟨-, e⟩ | ⟨hl, e⟩ := stageDone_cases i u <;> rw [e]
    · exact h.finishOperation
    · exact h.enterStageOne ha hl

theorem runFrame_beginOperation (i : Instr) (s : State) : RunFrame i s (beginOperation s) := by
  obtain ⟨st, ha, -, -⟩ := activeStage_beginOperation i s
  have hzero (sp : Space) : (beginOperation s).stored i sp = 0 := by simp [stored_eq ha]
  exact {
    active := by rw [ha]; rfl
    params := rfl
    cur := fun _ => rfl
    val := fun _ => rfl
    mlen := fun _ => rfl
    kept := fun sp => by rw [hzero]; exact ⟨fun _ _ => by cases sp <;> rfl, fun _ => by cases sp <;> rfl, lengthWithin_zero _⟩ }

theorem runCore_frame {n : Nat} (h : runCore i n (beginOperation s) = .next t) : RunFrame i s t :=
  runCore_induction (P := RunFrame i s)
    (fun _ _ _ hu huv => have ⟨_, ha, ht⟩ := coreStep_next huv; RunFrame.step hu ha ht) (runFrame_beginOperation i s) h

/-- A core step that ends in DONE is `StageDone` of the last stage, which sets OLEN (R183). -/
theorem coreStep_done (hb : u.state = .busy) (h : coreStep i u = .next v) (hdone : v.state = .done) :
    v.stg.val + 1 = (sched i).length ∧ v.wp = v.olen := by
  obtain ⟨st, -, ht⟩ := coreStep_next h
  obtain rfl | ⟨-, rfl⟩ | ⟨hstate, -⟩ := ht.progress
  · cases hdone
  · obtain ⟨hl, e⟩ | ⟨-, e⟩ := stageDone_cases i u <;> rw [e] at hdone ⊢
    · exact ⟨hl, rfl⟩
    · rw [enterStageOne_state, hb] at hdone
      cases hdone
  · rw [hstate, hb] at hdone
    cases hdone

theorem runCore_done {n : Nat} (h : runCore i n (beginOperation s) = .next t) (hdone : t.state = .done) :
    t.stg.val + 1 = (sched i).length ∧ t.wp = t.olen :=
  runCore_induction (P := fun u => u.state = .done → u.stg.val + 1 = (sched i).length ∧ u.wp = u.olen)
    (fun _ _ hb _ huv => coreStep_done hb huv) (by simp) h hdone

/-- A whole operation that does not start changes STATE, ERR and OLEN at most, and one that starts is a run (R178). -/
theorem exec_unstarted_or_run (h : exec i s = .next t) :
    (∃ x e n, x ≠ .done ∧ t = { s with state := x, err := e, olen := n }) ∨
      runCore i (stepBound s.ilen) (beginOperation s) = .next t := by
  by_cases hb : s.state = .busy
  · rw [exec_of_busy hb] at h
    cases h
    exact .inl ⟨s.state, s.err, s.olen, by simp [hb], rfl⟩
  · obtain hexec | hexec | hexec := exec_cases (i := i) hb <;> rw [hexec] at h
    · cases h
      exact .inl ⟨.error, _, _, nofun, rfl⟩
    · cases h
      exact .inl ⟨.error, _, _, nofun, rfl⟩
    · exact .inr h

end

/-- Settles O39: an operation that does not start leaves all but STATE, ERR and OLEN, and a run stays in stage 0 and
stores in OBUF alone. -/
theorem oneStageCommandFrame : Obligations.OneStageCommandFrame := by
  intro i s t hi h
  have hkeeps : CoreKeeps s t := operation_keeps ((exec_eq_operation i s).symm.trans h)
  refine ⟨hkeeps.cmd, hkeeps.ilen, ?_⟩
  obtain ⟨x, e, n, hx, rfl⟩ | hrun := exec_unstarted_or_run h
  · exact ⟨rfl, rfl, rfl, rfl, rfl, fun _ => rfl, fun _ => rfl, fun _ => rfl, fun _ => rfl, fun _ _ => rfl,
      fun hdone => absurd hdone hx, .inl rfl⟩
  have hframe := runCore_frame hrun
  obtain ⟨st, ha⟩ := Option.isSome_iff_exists.1 hframe.active
  have hlen : (sched i).length = 1 := by obtain rfl | rfl | rfl | rfl := hi <;> rfl
  have hlt : t.stg.val < (sched i).length := (List.getElem?_eq_some_iff.1 ha).1
  have hstg : t.stg = 0 := by omega
  have hdst : st.dst = .obuf := activeStage_last_dst ha (by simp [hstg, hlen])
  have hmbuf := hframe.kept .mbuf
  have hobuf := hframe.kept .obuf
  rw [stored_eq ha, hdst, if_neg nofun, if_neg (by simp [hstg])] at hmbuf
  rw [stored_eq ha, hdst, if_pos rfl] at hobuf
  refine ⟨hframe.mlen hstg, hkeeps.params, hkeeps.script, hkeeps.replies, hkeeps.draws, fun hne => hframe.cur ?_,
    fun hne => hframe.val ?_, fun a => by rw [hkeeps.ibuf], fun a => hmbuf.reads a (Nat.zero_le a), hobuf.reads,
    fun hdone => (runCore_done hrun hdone).2, .inr hobuf.within⟩
  · revert hne
    obtain rfl | rfl | rfl | rfl := hi <;> decide
  · revert hne
    obtain rfl | rfl | rfl | rfl := hi <;> decide

/-- Settles O40: an operation that does not start leaves all but STATE, ERR and OLEN, and a run stores in MBUF in stage 0
and in OBUF in stage 1. -/
theorem twoStageCommandFrame : Obligations.TwoStageCommandFrame := by
  intro i s t hi h
  have hkeeps : CoreKeeps s t := operation_keeps ((exec_eq_operation i s).symm.trans h)
  refine ⟨hkeeps.cmd, hkeeps.ilen, hkeeps.params, hkeeps.script, hkeeps.replies, hkeeps.draws, ?_⟩
  obtain ⟨x, e, n, hx, rfl⟩ | hrun := exec_unstarted_or_run h
  · exact ⟨fun _ => rfl, fun _ => rfl, fun _ => rfl, fun _ => rfl, fun _ _ => rfl, fun _ _ => rfl,
      fun hdone => absurd hdone hx, .inl rfl, .inl rfl⟩
  have hframe := runCore_frame hrun
  obtain ⟨st, ha⟩ := Option.isSome_iff_exists.1 hframe.active
  have hlen : (sched i).length = 2 := by obtain rfl | rfl := hi <;> rfl
  have hmbuf := hframe.kept .mbuf
  have hobuf := hframe.kept .obuf
  rw [stored_eq ha] at hmbuf hobuf
  have hbuffers : KeptFrom s .mbuf (if t.stg = 0 then t.wp else t.mlen) t.mbuf ∧
      KeptFrom s .obuf (if t.stg = 0 then 0 else t.wp) t.obuf := by
    obtain hstg | hstg : t.stg = 0 ∨ t.stg = 1 := by omega
    · have hdst : st.dst = .mbuf := activeStage_dst_of_not_last ha (by simp [hstg, hlen])
      simpa [hstg, hdst, State.buffer] using And.intro hmbuf hobuf
    · have hdst : st.dst = .obuf := activeStage_last_dst ha (by simp [hstg, hlen])
      simpa [hstg, hdst, State.buffer] using And.intro hmbuf hobuf
  obtain ⟨hmbuf, hobuf⟩ := hbuffers
  refine ⟨fun hc => hframe.val ?_, fun hd => hframe.cur ?_, hframe.mlen, fun a => by rw [hkeeps.ibuf], hmbuf.reads,
    hobuf.reads, fun hdone => ?_, .inr hmbuf.within, ?_⟩
  · subst hc
    decide
  · subst hd
    decide
  · obtain ⟨hl, hwp⟩ := runCore_done hrun hdone
    exact ⟨by omega, hwp⟩
  · by_cases hstg : t.stg = 0
    · exact .inl (hobuf.untouched (if_pos hstg))
    · rw [if_neg hstg] at hobuf
      exact .inr hobuf.within

end Sys2Proof.Machine
